-- ==== Sys2Proof/Word.lean ====
section
/-! DEFINITION. The two basic types of the block: a byte and a level of the line (00_scope.md R11). -/

namespace Sys2Proof

/-- A byte: an unsigned 8-bit value, bit 0 the least significant (00_scope.md R11). -/
abbrev Byte := BitVec 8

/-- A level of the line: `HIGH` = 1 is the idle level, `LOW` = 0 (00_scope.md R11). -/
inductive Level where
  | low
  | high
deriving DecidableEq, Repr

/-- What one party does to the line in a tick: drive a level, or release it (10_state.md R20,
20_memory.md R73). -/
inductive Drive where
  | low
  | high
  | released
deriving DecidableEq, Repr

end Sys2Proof
end

