-- ==== Sys2Proof/Config.lean ====
section
/-! DEFINITION. What is fixed for a run: the parameters of 00_scope.md R7 and R10, the configuration
inputs of 10_state.md R40, and the values the spec leaves open (opaque constants, never evaluated). -/

namespace Sys2Proof

/-- The implementation parameters, one named field each (00_scope.md R7, R10). Durations are in
microseconds, which are ticks (R8). -/
structure Config where
  /-- `TICK_US` -/
  tickUs : Nat
  /-- `RESET_LOW_MIN` -/
  resetLowMin : Nat
  /-- `RESET_LOW_MAX` -/
  resetLowMax : Nat
  /-- `PULSE_ON_THRESHOLD` -/
  pulseOnThreshold : Nat
  /-- `S_US` -/
  sUs : Nat
  /-- `L_US` -/
  lUs : Nat
  /-- `HIGH0_US` -/
  high0Us : Nat
  /-- `IDLE_US` -/
  idleUs : Nat
  /-- `RESET_TX_LOW_US` -/
  resetTxLowUs : Nat
  /-- `RESET_TX_HIGH_US` -/
  resetTxHighUs : Nat
  /-- `PKT_LEN` -/
  pktLen : Nat
  /-- `HDR_LEN` -/
  hdrLen : Nat
  /-- `PAYLOAD_LEN` -/
  payloadLen : Nat
  /-- `BURST_LEN` -/
  burstLen : Nat
  /-- `MIN_LOG_BITS` -/
  minLogBits : Nat
  /-- `MIN_VALID_BYTES` -/
  minValidBytes : Nat
  /-- `POLL_PERIOD_US` -/
  pollPeriodUs : Nat
  /-- `END_MSG_TIMEOUT_US` -/
  endMsgTimeoutUs : Nat
  /-- `INJECT_DELAY_US` -/
  injectDelayUs : Nat
  /-- `INJECT_US` -/
  injectUs : Nat
  /-- `RB_SAMPLE_US` -/
  rbSampleUs : Nat
  /-- `REPLY_GAP_US` -/
  replyGapUs : Nat
  /-- `ONESHOT_MASK` -/
  oneshotMask : Byte
  /-- `HOST_OWN_MASK` -/
  hostOwnMask : Byte
  /-- `REMOTE_OWN_MASK` -/
  remoteOwnMask : Byte
  /-- `CTR_MAX` -/
  ctrMax : Nat
  /-- `CHUNK_LEN`, of the surrounding software (R10) -/
  chunkLen : Nat
  /-- `TEXT_END_MARK`, of the surrounding software (R10) -/
  textEndMark : Byte
deriving DecidableEq, Repr

/-- `ROLE`: the receive role (peripheral-emulation, 0) or the transmit role (host-emulation, 1)
(00_scope.md R4, 10_state.md R40). -/
inductive Role where
  | rx
  | tx
deriving DecidableEq, Repr

/-- The configuration inputs, constant while `rst` = 0 (10_state.md R20, R40). -/
structure Pins where
  /-- `ROLE` -/
  role : Role
  /-- `RB_EN`, transmit role only -/
  rbEn : Bool
  /-- `INJ_EN`, receive role only -/
  injEn : Bool
  /-- `REPLY_EN`, receive role only -/
  replyEn : Bool
deriving DecidableEq, Repr

/-- The tag of a text fragment (49_text_chunker_boundary.md R308, 90_conflicts.md C9). -/
inductive ChunkTag where
  | append
  | finish
deriving DecidableEq, Repr

/-- `MAX_TEXT_LEN`: OPEN, no default (00_scope.md R10, 93_implementation_defined.md U7). A free value:
nothing constrains it (log entry 14). -/
opaque Config.maxTextLen : Nat

/-- The string that a session gets from a text longer than `MAX_TEXT_LEN`, before it is cut to that
length: R306 bounds the string and does not say what becomes of a longer one
(49_text_chunker_boundary.md R306). A free value (log entry 15). -/
opaque Config.overlongText : List Byte → List Byte

/-- Where the items of a text packet (the text bytes, the tag, the spare byte) sit among the payload
bytes after the id: item `i`'s place among the items after it. The positions are not in the source
(48_command_vocabulary.md R297, 91_not_in_source.md N5). A free value (log entry 14). -/
opaque Config.textPlace : ChunkTag → Nat → Nat

/-- The byte value of the tag "append", not in the source (48_command_vocabulary.md R297). A free value
(log entry 14). -/
opaque Config.appendTag : Byte

/-- How far the byte value of the tag "end" lies from that of "append", less one: the two values are not
in the source, but they differ (48_command_vocabulary.md R297). A free value (log entry 14). -/
opaque Config.endTagGap : Fin 255

/-- Whether the one payload byte that 91_not_in_source.md N5 leaves unaccounted for is part of the
buffer a text packet is sent with, so that its length is ten and not nine. A free value
(log entry 14). -/
opaque Config.textHasTenthByte : Bool

/-- That byte, of a string and a cursor (91_not_in_source.md N5). A free value (log entry 14). -/
opaque Config.textSpareByte : List Byte → Nat → Byte

/-- The completion flag that CHUNK.NEXT returns when its SEND is refused, of the string and the cursor
(49_text_chunker_boundary.md R308 corner case 4 does not say). A free value (log entry 23). -/
opaque Config.refusedChunkDone : List Byte → Nat → Bool

end Sys2Proof
end

