-- ==== Sys2Proof/Syntax.lean ====
section
/-! DEFINITION. The operations of the block: one constructor of `Instr` for every row of
spec/opcode_table.json, with the operand forms the rules give each (30_encoding.md R80, R98). -/

namespace Sys2Proof

/-- How a line symbol occurs: decoded from a LOW of `d` ticks before a rising edge (30_encoding.md
R81), transmitted as a waveform (R82), or transmitted as overlay cell `i` of byte 0 (R82, `ZERO`
only). -/
inductive PulseForm where
  | decoded (d : Nat)
  | transmitted
  | overlay (i : Nat)
deriving DecidableEq, Repr

/-- Format `BYTE`: sent as a waveform with overlay mask `m` (43_pulse_encoder.md R170), or received as
eight decoded bits (41_packet_assembler.md R141). -/
inductive ByteForm where
  | sent (v m : Byte)
  | received (v : Byte)
deriving DecidableEq, Repr

/-- Format `PACKET`: sent whole as the waveform of 43_pulse_encoder.md R171, or received, that is
completed with its thirteen bytes in `pkt` (41_packet_assembler.md R144). -/
inductive PacketForm where
  | sent (a f : Byte) (p : List Byte) (m : Byte)
  | received
deriving DecidableEq, Repr

/-- Format `BURST`: sent as the waveform of 43_pulse_encoder.md R172, or received, that is completed
with its eleven bytes in `pkt` (46_link_tx.md R246). -/
inductive BurstForm where
  | sent (p : List Byte)
  | received
deriving DecidableEq, Repr

/-- What is done with one header flag: its owner's host sets it or clears it, the block of the other
party sees it in what it received, or the other party's host takes it (44_arbitration_header.md
R186 to R196). -/
inductive FlagForm where
  | set
  | clear
  | seen
  | take
deriving DecidableEq, Repr

/-- The three legs on which the block carries a command id and its data (48_command_vocabulary.md
R284): from the host into the queue, from the queue to the wire, from the wire to `rx_payload`. -/
inductive Leg where
  | enqueue
  | send
  | deliver
deriving DecidableEq, Repr

/-- Which trailer `PAR.CHECK` tests (42_parity.md R156). -/
inductive ParityForm where
  | packet
  | burst
deriving DecidableEq, Repr

/-- Which flag byte `HDR.DECODE` reads (44_arbitration_header.md R185, R197). -/
inductive HdrSource where
  | ownFlags
  | peerFlags
  | overlayVector
  | packetByte
deriving DecidableEq, Repr

/-- `RX.INJECT`: the arming of 45_link_rx.md R213, or one tick of the machine (R214, R215) with this
tick's sample of the line. -/
inductive InjectForm where
  | arm
  | tick (line : Level)
deriving DecidableEq, Repr

/-- `RX.REPLY`: the start of the reply burst (45_link_rx.md R216) or its end (R217). -/
inductive ReplyForm where
  | start
  | finish
deriving DecidableEq, Repr

/-- The host command port as sampled in one tick (10_state.md R20, 30_encoding.md R91). -/
structure HostPort where
  /-- `cmd_valid` -/
  valid : Bool
  /-- `cmd_op[2:0]` -/
  op : BitVec 3
  /-- `cmd_arg[7:0]` -/
  arg : Byte
  /-- `cmd_len[3:0]` -/
  len : BitVec 4
  /-- `cmd_data[0..9]` -/
  data : Vector Byte 10
deriving DecidableEq, Repr

/-- One operation of the block, in the order of spec/opcode_table.json. -/
inductive Instr where
  -- PULSE
  | reset (form : PulseForm)
  | one (form : PulseForm)
  | zero (form : PulseForm)
  -- BYTE, PACKET, BURST
  | byte (form : ByteForm)
  | packet (form : PacketForm)
  | burst (form : BurstForm)
  -- HFLAG
  | hostReady (form : FlagForm)
  | dataAvail (form : FlagForm)
  | busAvail (form : FlagForm)
  | errorHost (form : FlagForm)
  -- RFLAG
  | txReady (form : FlagForm)
  | readyForText (form : FlagForm)
  | timerRequest (form : FlagForm)
  | errorRemote (form : FlagForm)
  | isInit (form : FlagForm)
  -- CMDID: the leg and payload bytes 1 to 9
  | cmdCapabilities (leg : Leg) (data : List Byte)
  | cmdDisplayMode (leg : Leg) (data : List Byte)
  | cmdBacklight (leg : Leg) (data : List Byte)
  | cmdVolume (leg : Leg) (data : List Byte)
  | cmdPlayMode (leg : Leg) (data : List Byte)
  | cmdRecMode (leg : Leg) (data : List Byte)
  | cmdBattery (leg : Leg) (data : List Byte)
  | cmdEq (leg : Leg) (data : List Byte)
  | cmdAlarm (leg : Leg) (data : List Byte)
  | cmdTrack (leg : Leg) (data : List Byte)
  | cmdPlayState (leg : Leg) (data : List Byte)
  | cmdDisplay (leg : Leg) (data : List Byte)
  | cmdText (leg : Leg) (data : List Byte)
  | cmdRequestWriteAddress (leg : Leg) (data : List Byte)
  | cmdTrackCount (leg : Leg) (data : List Byte)
  | cmdSetTrack (leg : Leg) (data : List Byte)
  -- HOSTOP: `len` is `cmd_len`, `data` the ten bytes `cmd_data`, `arg` the byte `cmd_arg`
  | hnop
  | send (len : Nat) (data : List Byte)
  | take (arg : Byte)
  | setf (arg : Byte)
  | clrf (arg : Byte)
  | wra (arg : Byte)
  | clrd (arg : Byte)
  | hostopReserved7
  -- EVENT: PulseClock and assembler
  | clkStep (line : Level)
  | falling (d : Nat)
  | asmStart
  | asmBit (b : Bool)
  | asmAbandon
  | asmComplete
  -- EVENT: parity, player, header
  | parFold (bytes : List Byte)
  | parCheck (form : ParityForm)
  | parAppend
  | playerStep (line : Level)
  | hdrDecode (src : HdrSource)
  | hdrEncode
  -- EVENT: receive role
  | rxSync
  | rxStart
  | rxBit (b : Bool)
  | rxDone
  | rxResync
  | rxTimeout
  | rxInject (form : InjectForm)
  | rxReply (form : ReplyForm)
  -- EVENT: transmit role
  | txStart
  | txPreamble
  | txHdra
  | txOverlay (line : Level)
  | txFold
  | txFlags
  | txDequeue
  | txPayload
  | txParity
  | txEnd
  | rbEnter
  | rbBit (b : Bool)
  | rbDone
  | rbAbort
  | rbTimeout
  -- EVENT: the surrounding software
  | chunkNext
deriving DecidableEq, Repr

end Sys2Proof
end

