-- ==== Sys2Proof/WellFormed.lean ====
section
/-! DEFINITION. When an operation's operands are ones the spec's encodings admit. -/

namespace Sys2Proof

/-- A symbol's operands: a measured LOW time is 1 to 65535 ticks (30_encoding.md R81, 40_pulse_decoder.md
R120 corner case 3); only a `ZERO` has an overlay form (R82), and its cell index is 0 to 7. -/
def PulseForm.wellFormed (mayOverlay : Bool) : PulseForm → Bool
  | .decoded d => decide (1 ≤ d) && decide (d < 65536)
  | .transmitted => true
  | .overlay i => mayOverlay && decide (i < 8)

/-- A sent packet carries ten payload bytes (20_memory.md R64). -/
def PacketForm.wellFormed : PacketForm → Bool
  | .sent _ _ p _ => decide (p.length = 10)
  | .received => true

/-- A sent burst carries ten payload bytes (20_memory.md R64). -/
def BurstForm.wellFormed : BurstForm → Bool
  | .sent p => decide (p.length = 10)
  | .received => true

/-- An operation whose operands fit their fields: `cmd_len` has 4 bits and `cmd_data` ten bytes
(30_encoding.md R91), a command id is followed by nine bytes (20_memory.md R64), a falling edge
reports 0 to 65535 ticks (40_pulse_decoder.md R120), and a folded list is at most 255 bytes long
(the container's count byte, log entry 7). -/
def Instr.wellFormed : Instr → Bool
  | .reset f => f.wellFormed false
  | .one f => f.wellFormed false
  | .zero f => f.wellFormed true
  | .byte _ => true
  | .packet f => f.wellFormed
  | .burst f => f.wellFormed
  | .hostReady _ => true
  | .dataAvail _ => true
  | .busAvail _ => true
  | .errorHost _ => true
  | .txReady _ => true
  | .readyForText _ => true
  | .timerRequest _ => true
  | .errorRemote _ => true
  | .isInit _ => true
  | .cmdCapabilities _ data => decide (data.length = 9)
  | .cmdDisplayMode _ data => decide (data.length = 9)
  | .cmdBacklight _ data => decide (data.length = 9)
  | .cmdVolume _ data => decide (data.length = 9)
  | .cmdPlayMode _ data => decide (data.length = 9)
  | .cmdRecMode _ data => decide (data.length = 9)
  | .cmdBattery _ data => decide (data.length = 9)
  | .cmdEq _ data => decide (data.length = 9)
  | .cmdAlarm _ data => decide (data.length = 9)
  | .cmdTrack _ data => decide (data.length = 9)
  | .cmdPlayState _ data => decide (data.length = 9)
  | .cmdDisplay _ data => decide (data.length = 9)
  | .cmdText _ data => decide (data.length = 9)
  | .cmdRequestWriteAddress _ data => decide (data.length = 9)
  | .cmdTrackCount _ data => decide (data.length = 9)
  | .cmdSetTrack _ data => decide (data.length = 9)
  | .hnop => true
  | .send len data => decide (len < 16) && decide (data.length = 10)
  | .take _ => true
  | .setf _ => true
  | .clrf _ => true
  | .wra _ => true
  | .clrd _ => true
  | .hostopReserved7 => true
  | .clkStep _ => true
  | .falling d => decide (d < 65536)
  | .asmStart => true
  | .asmBit _ => true
  | .asmAbandon => true
  | .asmComplete => true
  | .parFold bytes => decide (bytes.length < 256)
  | .parCheck _ => true
  | .parAppend => true
  | .playerStep _ => true
  | .hdrDecode _ => true
  | .hdrEncode => true
  | .rxSync => true
  | .rxStart => true
  | .rxBit _ => true
  | .rxDone => true
  | .rxResync => true
  | .rxTimeout => true
  | .rxInject _ => true
  | .rxReply _ => true
  | .txStart => true
  | .txPreamble => true
  | .txHdra => true
  | .txOverlay _ => true
  | .txFold => true
  | .txFlags => true
  | .txDequeue => true
  | .txPayload => true
  | .txParity => true
  | .txEnd => true
  | .rbEnter => true
  | .rbBit _ => true
  | .rbDone => true
  | .rbAbort => true
  | .rbTimeout => true
  | .chunkNext => true

end Sys2Proof
end

