-- ==== Sys2Proof/Decode.lean ====
section
/-! DEFINITION. From encodings to operations and back. The spec's own decoders stand first: a LOW
duration is a symbol (30_encoding.md R81), a byte of a format selects a row by the table's match and
mask (R88 to R91, R98). Then the model's container of operation words, which holds every operation of
the table with its operands (log entry 7), and its encoder. -/

namespace Sys2Proof

/-! ## Symbols: windows of LOW durations -/

/-- The three outcomes of the bit decoder (40_pulse_decoder.md R125: there is no fourth). -/
inductive Symbol where
  | reset
  | one
  | zero
deriving DecidableEq, Repr

/-- The classification of a rising edge by the LOW time before it, tested in this order
(30_encoding.md R81, 40_pulse_decoder.md R121, R122, R123, R125). -/
def classify (cfg : Config) (d : Nat) : Symbol :=
  if cfg.resetLowMin ≤ d ∧ d ≤ cfg.resetLowMax then .reset
  else if d < cfg.pulseOnThreshold then .one
  else .zero

/-- The operation that a rising edge after `d` LOW ticks is. -/
def symbolInstr (cfg : Config) (d : Nat) : Instr :=
  match classify cfg d with
  | .reset => .reset (.decoded d)
  | .one => .one (.decoded d)
  | .zero => .zero (.decoded d)

/-! ## Bytes and bits of the container -/

/-- Why a word is rejected. -/
inductive DecodeError where
  /-- the bytes end before the operation's operands do -/
  | truncated
  /-- the format byte names no format -/
  | unknownFormat
  /-- the code byte selects no row of its format -/
  | unknownCode
  /-- an operand field holds a value that the operation does not have -/
  | badOperand
deriving DecidableEq, Repr

/-- What a decoder answers: an operation and the bytes after it, or the reason it rejects. -/
abbrev Parsed := Except DecodeError (Instr × List Byte)

/-- The first `n` bytes and the rest, if there are as many. -/
def takeBytes : Nat → List Byte → Option (List Byte × List Byte)
  | 0, l => some ([], l)
  | _ + 1, [] => none
  | n + 1, b :: l =>
    match takeBytes n l with
    | some (front, rest) => some (b :: front, rest)
    | none => none

/-- A 16-bit operand, low byte first. -/
def join16 (lo hi : Byte) : Nat := lo.toNat + 256 * hi.toNat

/-- The two bytes of a 16-bit operand, low byte first. -/
def split16 (d : Nat) : List Byte := [BitVec.ofNat 8 (d % 256), BitVec.ofNat 8 (d / 256)]

/-- A level as a byte: LOW = 0, HIGH = 1 (00_scope.md R11). -/
def Level.toByte : Level → Byte
  | .low => 0x00#8
  | .high => 0x01#8

/-- The level a byte stands for. -/
def levelOfByte (b : Byte) : Option Level :=
  match b.toNat with
  | 0 => some .low
  | 1 => some .high
  | _ => none

/-- A bit as a byte. -/
def byteOfBool (b : Bool) : Byte := if b then 0x01#8 else 0x00#8

/-- The bit a byte stands for. -/
def boolOfByte (b : Byte) : Option Bool :=
  match b.toNat with
  | 0 => some false
  | 1 => some true
  | _ => none

/-- The flag form a byte stands for. -/
def flagFormOfByte (b : Byte) : Option FlagForm :=
  match b.toNat with
  | 0 => some .set
  | 1 => some .clear
  | 2 => some .seen
  | 3 => some .take
  | _ => none

/-- The byte of a flag form. -/
def FlagForm.toByte : FlagForm → Byte
  | .set => 0x00#8
  | .clear => 0x01#8
  | .seen => 0x02#8
  | .take => 0x03#8

/-- The leg a byte stands for. -/
def legOfByte (b : Byte) : Option Leg :=
  match b.toNat with
  | 0 => some .enqueue
  | 1 => some .send
  | 2 => some .deliver
  | _ => none

/-- The byte of a leg. -/
def Leg.toByte : Leg → Byte
  | .enqueue => 0x00#8
  | .send => 0x01#8
  | .deliver => 0x02#8

/-- The header source a byte stands for. -/
def hdrSourceOfByte (b : Byte) : Option HdrSource :=
  match b.toNat with
  | 0 => some .ownFlags
  | 1 => some .peerFlags
  | 2 => some .overlayVector
  | 3 => some .packetByte
  | _ => none

/-- The byte of a header source. -/
def HdrSource.toByte : HdrSource → Byte
  | .ownFlags => 0x00#8
  | .peerFlags => 0x01#8
  | .overlayVector => 0x02#8
  | .packetByte => 0x03#8

/-! ## Rows selected by a byte or a code -/

/-- The row of format `HOSTOP` that `cmd_op` selects (30_encoding.md R91): the eight codes are all
rows, so nothing is rejected. `cmd_arg`, `cmd_len` and `cmd_data` are the operands. -/
def hostopRow (op : BitVec 3) (arg : Byte) (len : Nat) (data : List Byte) : Instr :=
  match op.toNat with
  | 0 => .hnop
  | 1 => .send len data
  | 2 => .take arg
  | 3 => .setf arg
  | 4 => .clrf arg
  | 5 => .wra arg
  | 6 => .clrd arg
  | _ => .hostopReserved7

/-- The row of format `CMDID` that payload byte 0 selects (30_encoding.md R90). -/
def cmdidRow (id : Byte) (leg : Leg) (data : List Byte) : Option Instr :=
  match id.toNat with
  | 0x01 => some (.cmdCapabilities leg data)
  | 0x03 => some (.cmdDisplayMode leg data)
  | 0x05 => some (.cmdBacklight leg data)
  | 0x40 => some (.cmdVolume leg data)
  | 0x41 => some (.cmdPlayMode leg data)
  | 0x42 => some (.cmdRecMode leg data)
  | 0x43 => some (.cmdBattery leg data)
  | 0x46 => some (.cmdEq leg data)
  | 0x47 => some (.cmdAlarm leg data)
  | 0xA0 => some (.cmdTrack leg data)
  | 0xA1 => some (.cmdPlayState leg data)
  | 0xA2 => some (.cmdDisplay leg data)
  | 0xC8 => some (.cmdText leg data)
  | 0x18 => some (.cmdRequestWriteAddress leg data)
  | 0xD8 => some (.cmdTrackCount leg data)
  | 0xD9 => some (.cmdSetTrack leg data)
  | _ => none

/-- The row of format `HFLAG` of one flag bit, by its mask (30_encoding.md R88). -/
def hflagRow (mask : Byte) (form : FlagForm) : Option Instr :=
  match mask.toNat with
  | 0x80 => some (.hostReady form)
  | 0x01 => some (.dataAvail form)
  | 0x10 => some (.busAvail form)
  | 0x40 => some (.errorHost form)
  | _ => none

/-- The row of format `RFLAG` of one flag bit, by its mask (30_encoding.md R89). -/
def rflagRow (mask : Byte) (form : FlagForm) : Option Instr :=
  match mask.toNat with
  | 0x10 => some (.txReady form)
  | 0x02 => some (.readyForText form)
  | 0x04 => some (.timerRequest form)
  | 0x40 => some (.errorRemote form)
  | 0x80 => some (.isInit form)
  | _ => none

/-- The eight flag masks, bit 0 first. -/
def flagMasks : List Byte := [0x01#8, 0x02#8, 0x04#8, 0x08#8, 0x10#8, 0x20#8, 0x40#8, 0x80#8]

/-- All rows of format `HFLAG` that a flag byte matches: a byte carries several flags at once, and an
unassigned bit selects no row (30_encoding.md R88, R93). -/
def hflagRows (b : Byte) (form : FlagForm) : List Instr :=
  flagMasks.filterMap fun m => if b &&& m = m then hflagRow m form else none

/-- All rows of format `RFLAG` that a flag byte matches (30_encoding.md R89, R93). -/
def rflagRows (b : Byte) (form : FlagForm) : List Instr :=
  flagMasks.filterMap fun m => if b &&& m = m then rflagRow m form else none

/-! ## The container of operation words (log entry 7)

An operation word is: the code byte, the format byte, the operands. The code byte is the byte or code
of the row in the spec's table (for `PULSE`, the bit's value and 2 for `RESET`; for the frames 0, 1,
2; for `EVENT`, which has no bit pattern, the row's place in the table). -/

/-- The formats of the container. `bare` is a word whose format is not written and follows from its
code byte (`formatOfBareCode`). -/
inductive WordFormat where
  | bare
  | hostop
  | cmdid
  | hflag
  | rflag
  | pulse
  | frame
  | event
deriving DecidableEq, Repr

/-- The format that a format byte names. -/
def formatOfByte (b : Byte) : Option WordFormat :=
  match b.toNat with
  | 0 => some .bare
  | 1 => some .hostop
  | 2 => some .cmdid
  | 3 => some .hflag
  | 4 => some .rflag
  | 5 => some .pulse
  | 6 => some .frame
  | 7 => some .event
  | _ => none

/-- The format of a bare code byte: a host code where it is one, else a command id of the
vocabulary, else a host flag, else a remote flag (log entry 7: the spec's formats share their bytes,
and which format a byte has is a matter of where it stands). -/
def formatOfBareCode (code : Byte) : Option WordFormat :=
  if code.toNat < 8 then some .hostop
  else if (cmdidRow code .enqueue []).isSome then some .cmdid
  else if (hflagRow code .set).isSome then some .hflag
  else if (rflagRow code .set).isSome then some .rflag
  else none

/-- A host command: `cmd_op` in the code byte, then `cmd_arg`, `cmd_len` and the ten bytes
`cmd_data` (30_encoding.md R91). -/
def decodeHostop (code : Byte) : List Byte → Parsed
  | arg :: len :: rest =>
    match takeBytes 10 rest with
    | none => .error .truncated
    | some (data, rest) =>
      if 8 ≤ code.toNat then .error .unknownCode
      else if 16 ≤ len.toNat then .error .badOperand
      else .ok (hostopRow (code.setWidth 3) arg len.toNat data, rest)
  | _ => .error .truncated

/-- A command id: the leg, then payload bytes 1 to 9. -/
def decodeCmdid (code : Byte) : List Byte → Parsed
  | leg :: rest =>
    match legOfByte leg, takeBytes 9 rest with
    | none, _ => .error .badOperand
    | _, none => .error .truncated
    | some leg, some (data, rest) =>
      match cmdidRow code leg data with
      | some i => .ok (i, rest)
      | none => .error .unknownCode
  | [] => .error .truncated

/-- A header flag of the vocabulary `row`: its form. -/
def decodeFlag (row : Byte → FlagForm → Option Instr) (code : Byte) : List Byte → Parsed
  | form :: rest =>
    match flagFormOfByte form with
    | none => .error .badOperand
    | some form =>
      match row code form with
      | some i => .ok (i, rest)
      | none => .error .unknownCode
  | [] => .error .truncated

/-- The symbol a code byte names: the bit's value, 2 for a link reset. -/
def symbolRow (code : Byte) (form : PulseForm) : Option Instr :=
  match code.toNat with
  | 0 => some (.zero form)
  | 1 => some (.one form)
  | 2 => some (.reset form)
  | _ => none

/-- The form of a line symbol and its operand. -/
def decodePulseForm : List Byte → Except DecodeError (PulseForm × List Byte)
  | form :: rest =>
    match form.toNat, rest with
    | 0, lo :: hi :: rest => .ok (.decoded (join16 lo hi), rest)
    | 0, _ => .error .truncated
    | 1, rest => .ok (.transmitted, rest)
    | 2, i :: rest => .ok (.overlay i.toNat, rest)
    | 2, [] => .error .truncated
    | _, _ => .error .badOperand
  | [] => .error .truncated

/-- A line symbol: its form, then the measured LOW time or the overlay cell's index. -/
def decodePulse (code : Byte) (bytes : List Byte) : Parsed :=
  match decodePulseForm bytes with
  | .error e => .error e
  | .ok (form, rest) =>
    match symbolRow code form with
    | none => .error .unknownCode
    | some i => if i.wellFormed then .ok (i, rest) else .error .badOperand

/-- A frame: its form (0 sent, 1 received), then its bytes in their order on the wire
(20_memory.md R63). -/
def decodeFrame (code : Byte) : List Byte → Parsed
  | form :: rest =>
    match code.toNat, form.toNat, rest with
    | 0, 0, v :: m :: rest => .ok (.byte (.sent v m), rest)
    | 0, 1, v :: rest => .ok (.byte (.received v), rest)
    | 1, 0, a :: f :: m :: rest =>
      match takeBytes 10 rest with
      | some (p, rest) => .ok (.packet (.sent a f p m), rest)
      | none => .error .truncated
    | 1, 1, rest => .ok (.packet .received, rest)
    | 2, 0, rest =>
      match takeBytes 10 rest with
      | some (p, rest) => .ok (.burst (.sent p), rest)
      | none => .error .truncated
    | 2, 1, rest => .ok (.burst .received, rest)
    | c, f, _ =>
      if 3 ≤ c then .error .unknownCode
      else if 2 ≤ f then .error .badOperand
      else .error .truncated
  | [] => .error .truncated

/-- An operand byte read by `read`, then the operation `make` builds with it. -/
def decodeOperand {α : Type} (read : Byte → Option α) (make : α → Instr) : List Byte → Parsed
  | b :: rest =>
    match read b with
    | some a => .ok (make a, rest)
    | none => .error .badOperand
  | [] => .error .truncated

/-- An internal event by its place among the table's `EVENT` rows, with its operands. -/
def decodeEvent (code : Byte) (rest : List Byte) : Parsed :=
  match code.toNat with
  | 0 => decodeOperand levelOfByte .clkStep rest
  | 1 =>
    match rest with
    | lo :: hi :: rest => .ok (.falling (join16 lo hi), rest)
    | _ => .error .truncated
  | 2 => .ok (.asmStart, rest)
  | 3 => decodeOperand boolOfByte .asmBit rest
  | 4 => .ok (.asmAbandon, rest)
  | 5 => .ok (.asmComplete, rest)
  | 6 =>
    match rest with
    | n :: rest =>
      match takeBytes n.toNat rest with
      | some (bytes, rest) => .ok (.parFold bytes, rest)
      | none => .error .truncated
    | [] => .error .truncated
  | 7 => decodeOperand boolOfByte (fun b => .parCheck (if b then .burst else .packet)) rest
  | 8 => .ok (.parAppend, rest)
  | 9 => decodeOperand levelOfByte .playerStep rest
  | 10 => decodeOperand hdrSourceOfByte .hdrDecode rest
  | 11 => .ok (.hdrEncode, rest)
  | 12 => .ok (.rxSync, rest)
  | 13 => .ok (.rxStart, rest)
  | 14 => decodeOperand boolOfByte .rxBit rest
  | 15 => .ok (.rxDone, rest)
  | 16 => .ok (.rxResync, rest)
  | 17 => .ok (.rxTimeout, rest)
  | 18 =>
    match rest with
    | b :: rest =>
      match b.toNat with
      | 0 => .ok (.rxInject .arm, rest)
      | 1 => decodeOperand levelOfByte (fun l => .rxInject (.tick l)) rest
      | _ => .error .badOperand
    | [] => .error .truncated
  | 19 => decodeOperand boolOfByte (fun b => .rxReply (if b then .finish else .start)) rest
  | 20 => .ok (.txStart, rest)
  | 21 => .ok (.txPreamble, rest)
  | 22 => .ok (.txHdra, rest)
  | 23 => decodeOperand levelOfByte .txOverlay rest
  | 24 => .ok (.txFold, rest)
  | 25 => .ok (.txFlags, rest)
  | 26 => .ok (.txDequeue, rest)
  | 27 => .ok (.txPayload, rest)
  | 28 => .ok (.txParity, rest)
  | 29 => .ok (.txEnd, rest)
  | 30 => .ok (.rbEnter, rest)
  | 31 => decodeOperand boolOfByte .rbBit rest
  | 32 => .ok (.rbDone, rest)
  | 33 => .ok (.rbAbort, rest)
  | 34 => .ok (.rbTimeout, rest)
  | 35 => .ok (.chunkNext, rest)
  | _ => .error .unknownCode

/-- The operation of a code byte in a format; a bare code is no format of its own. -/
def decodeIn : WordFormat → Byte → List Byte → Parsed
  | .bare, _, _ => .error .unknownCode
  | .hostop, code, rest => decodeHostop code rest
  | .cmdid, code, rest => decodeCmdid code rest
  | .hflag, code, rest => decodeFlag hflagRow code rest
  | .rflag, code, rest => decodeFlag rflagRow code rest
  | .pulse, code, rest => decodePulse code rest
  | .frame, code, rest => decodeFrame code rest
  | .event, code, rest => decodeEvent code rest

/-- The decoder: total on any bytes, rejecting by name. -/
def decode : List Byte → Parsed
  | code :: fmt :: rest =>
    match formatOfByte fmt with
    | none => .error .unknownFormat
    | some .bare =>
      match formatOfBareCode code with
      | none => .error .unknownCode
      | some format => decodeIn format code rest
    | some format => decodeIn format code rest
  | _ => .error .truncated

/-- How many bytes of a table word are laid out: no shorter than the longest host request (14). -/
def wordLength : Nat := 16

/-- The first `n` bytes of a number, least significant first. -/
def bytesOfNat : Nat → Nat → List Byte
  | 0, _ => []
  | n + 1, w => BitVec.ofNat 8 (w % 256) :: bytesOfNat n (w / 256)

/-- A table word of `nbits` bits laid out as bytes, every bit above them 0. -/
def tableBytes (nbits w : Nat) : List Byte := bytesOfNat wordLength (w % 2 ^ nbits)

/-- The instruction the decoder reads from an instruction whose bits are `w`. -/
def decodeTableWord (nbits w : Nat) : Option Instr :=
  match decode (tableBytes nbits w) with
  | .ok (i, _) => some i
  | .error _ => none

/-- The port's signals as an operation word of format `HOSTOP`. -/
def HostPort.word (p : HostPort) : List Byte :=
  [p.op.setWidth 8, 0x01#8, p.arg, p.len.setWidth 8] ++ p.data.toList

/-! ## The encoder -/

/-- The word of a host command. -/
def encodeHostop (op arg len : Byte) (data : List Byte) : List Byte :=
  [op, 0x01#8, arg, len] ++ data

/-- Ten zero bytes: the unused `cmd_data`. -/
def noData : List Byte := List.replicate 10 0x00#8

/-- The word of a command id. -/
def encodeCmdid (id : Byte) (leg : Leg) (data : List Byte) : List Byte :=
  [id, 0x02#8, leg.toByte] ++ data

/-- The word of a line symbol. -/
def encodePulse (code : Byte) : PulseForm → List Byte
  | .decoded d => [code, 0x05#8, 0x00#8] ++ split16 d
  | .transmitted => [code, 0x05#8, 0x01#8]
  | .overlay i => [code, 0x05#8, 0x02#8, BitVec.ofNat 8 i]

/-- The word of an event with its operand bytes. -/
def encodeEvent (code : Byte) (operands : List Byte) : List Byte := [code, 0x07#8] ++ operands

/-- The operation word of an operation. -/
def encode : Instr → List Byte
  | .reset f => encodePulse 0x02#8 f
  | .one f => encodePulse 0x01#8 f
  | .zero f => encodePulse 0x00#8 f
  | .byte (.sent v m) => [0x00#8, 0x06#8, 0x00#8, v, m]
  | .byte (.received v) => [0x00#8, 0x06#8, 0x01#8, v]
  | .packet (.sent a f p m) => [0x01#8, 0x06#8, 0x00#8, a, f, m] ++ p
  | .packet .received => [0x01#8, 0x06#8, 0x01#8]
  | .burst (.sent p) => [0x02#8, 0x06#8, 0x00#8] ++ p
  | .burst .received => [0x02#8, 0x06#8, 0x01#8]
  | .hostReady f => [0x80#8, 0x03#8, f.toByte]
  | .dataAvail f => [0x01#8, 0x03#8, f.toByte]
  | .busAvail f => [0x10#8, 0x03#8, f.toByte]
  | .errorHost f => [0x40#8, 0x03#8, f.toByte]
  | .txReady f => [0x10#8, 0x04#8, f.toByte]
  | .readyForText f => [0x02#8, 0x04#8, f.toByte]
  | .timerRequest f => [0x04#8, 0x04#8, f.toByte]
  | .errorRemote f => [0x40#8, 0x04#8, f.toByte]
  | .isInit f => [0x80#8, 0x04#8, f.toByte]
  | .cmdCapabilities leg data => encodeCmdid 0x01#8 leg data
  | .cmdDisplayMode leg data => encodeCmdid 0x03#8 leg data
  | .cmdBacklight leg data => encodeCmdid 0x05#8 leg data
  | .cmdVolume leg data => encodeCmdid 0x40#8 leg data
  | .cmdPlayMode leg data => encodeCmdid 0x41#8 leg data
  | .cmdRecMode leg data => encodeCmdid 0x42#8 leg data
  | .cmdBattery leg data => encodeCmdid 0x43#8 leg data
  | .cmdEq leg data => encodeCmdid 0x46#8 leg data
  | .cmdAlarm leg data => encodeCmdid 0x47#8 leg data
  | .cmdTrack leg data => encodeCmdid 0xA0#8 leg data
  | .cmdPlayState leg data => encodeCmdid 0xA1#8 leg data
  | .cmdDisplay leg data => encodeCmdid 0xA2#8 leg data
  | .cmdText leg data => encodeCmdid 0xC8#8 leg data
  | .cmdRequestWriteAddress leg data => encodeCmdid 0x18#8 leg data
  | .cmdTrackCount leg data => encodeCmdid 0xD8#8 leg data
  | .cmdSetTrack leg data => encodeCmdid 0xD9#8 leg data
  | .hnop => encodeHostop 0x00#8 0x00#8 0x00#8 noData
  | .send len data => encodeHostop 0x01#8 0x00#8 (BitVec.ofNat 8 len) data
  | .take arg => encodeHostop 0x02#8 arg 0x00#8 noData
  | .setf arg => encodeHostop 0x03#8 arg 0x00#8 noData
  | .clrf arg => encodeHostop 0x04#8 arg 0x00#8 noData
  | .wra arg => encodeHostop 0x05#8 arg 0x00#8 noData
  | .clrd arg => encodeHostop 0x06#8 arg 0x00#8 noData
  | .hostopReserved7 => encodeHostop 0x07#8 0x00#8 0x00#8 noData
  | .clkStep l => encodeEvent 0x00#8 [l.toByte]
  | .falling d => encodeEvent 0x01#8 (split16 d)
  | .asmStart => encodeEvent 0x02#8 []
  | .asmBit b => encodeEvent 0x03#8 [byteOfBool b]
  | .asmAbandon => encodeEvent 0x04#8 []
  | .asmComplete => encodeEvent 0x05#8 []
  | .parFold bytes => encodeEvent 0x06#8 (BitVec.ofNat 8 bytes.length :: bytes)
  | .parCheck .packet => encodeEvent 0x07#8 [0x00#8]
  | .parCheck .burst => encodeEvent 0x07#8 [0x01#8]
  | .parAppend => encodeEvent 0x08#8 []
  | .playerStep l => encodeEvent 0x09#8 [l.toByte]
  | .hdrDecode src => encodeEvent 0x0A#8 [src.toByte]
  | .hdrEncode => encodeEvent 0x0B#8 []
  | .rxSync => encodeEvent 0x0C#8 []
  | .rxStart => encodeEvent 0x0D#8 []
  | .rxBit b => encodeEvent 0x0E#8 [byteOfBool b]
  | .rxDone => encodeEvent 0x0F#8 []
  | .rxResync => encodeEvent 0x10#8 []
  | .rxTimeout => encodeEvent 0x11#8 []
  | .rxInject .arm => encodeEvent 0x12#8 [0x00#8]
  | .rxInject (.tick l) => encodeEvent 0x12#8 [0x01#8, l.toByte]
  | .rxReply .start => encodeEvent 0x13#8 [0x00#8]
  | .rxReply .finish => encodeEvent 0x13#8 [0x01#8]
  | .txStart => encodeEvent 0x14#8 []
  | .txPreamble => encodeEvent 0x15#8 []
  | .txHdra => encodeEvent 0x16#8 []
  | .txOverlay l => encodeEvent 0x17#8 [l.toByte]
  | .txFold => encodeEvent 0x18#8 []
  | .txFlags => encodeEvent 0x19#8 []
  | .txDequeue => encodeEvent 0x1A#8 []
  | .txPayload => encodeEvent 0x1B#8 []
  | .txParity => encodeEvent 0x1C#8 []
  | .txEnd => encodeEvent 0x1D#8 []
  | .rbEnter => encodeEvent 0x1E#8 []
  | .rbBit b => encodeEvent 0x1F#8 [byteOfBool b]
  | .rbDone => encodeEvent 0x20#8 []
  | .rbAbort => encodeEvent 0x21#8 []
  | .rbTimeout => encodeEvent 0x22#8 []
  | .chunkNext => encodeEvent 0x23#8 []

end Sys2Proof
end

