-- ==== Sys2Proof/Machine/Params.lean ====
section
/-! DEFINITION. The default configuration record and its well-formedness (00_scope.md R7, R9). -/

namespace Sys2Proof

/-- The defaults of 00_scope.md R7 and R10. -/
def Config.default : Config where
  tickUs := 1
  resetLowMin := 700
  resetLowMax := 1300
  pulseOnThreshold := 100
  sUs := 18
  lUs := 220
  high0Us := 18
  idleUs := 80
  resetTxLowUs := 1100
  resetTxHighUs := 1018
  pktLen := 13
  hdrLen := 2
  payloadLen := 10
  burstLen := 11
  minLogBits := 4
  minValidBytes := 2
  pollPeriodUs := 32000
  endMsgTimeoutUs := 5000
  injectDelayUs := 20
  injectUs := 220
  rbSampleUs := 128
  replyGapUs := 400
  oneshotMask := 0x06#8
  hostOwnMask := 0xD1#8
  remoteOwnMask := 0xD6#8
  ctrMax := 65535
  chunkLen := 7
  textEndMark := 0xFF#8

/-- The ordering conditions of 00_scope.md R9 between the durations. -/
abbrev Config.ordered (c : Config) : Prop :=
  0 < c.sUs ∧ c.sUs < c.pulseOnThreshold ∧
  c.pulseOnThreshold ≤ c.sUs + c.lUs ∧ c.sUs + c.lUs < c.resetLowMin ∧
  c.resetLowMin ≤ c.resetTxLowUs ∧ c.resetTxLowUs ≤ c.resetLowMax ∧
  1 ≤ c.high0Us ∧ 1 ≤ c.resetTxHighUs ∧
  c.resetLowMax < c.endMsgTimeoutUs ∧ c.resetTxHighUs < c.endMsgTimeoutUs ∧
  c.lUs + c.idleUs + c.sUs < c.endMsgTimeoutUs ∧
  c.sUs < c.injectDelayUs ∧ c.injectDelayUs < c.rbSampleUs ∧
  c.rbSampleUs < c.injectDelayUs + c.injectUs ∧
  c.sUs ≤ c.rbSampleUs ∧ c.rbSampleUs < c.sUs + c.lUs ∧
  c.lUs + c.idleUs < c.replyGapUs

/-- Every duration and `POLL_PERIOD_US` is at most `CTR_MAX` (00_scope.md R9). -/
abbrev Config.inRange (c : Config) : Prop :=
  c.resetLowMin ≤ c.ctrMax ∧ c.resetLowMax ≤ c.ctrMax ∧ c.pulseOnThreshold ≤ c.ctrMax ∧
  c.sUs ≤ c.ctrMax ∧ c.lUs ≤ c.ctrMax ∧ c.high0Us ≤ c.ctrMax ∧ c.idleUs ≤ c.ctrMax ∧
  c.resetTxLowUs ≤ c.ctrMax ∧ c.resetTxHighUs ≤ c.ctrMax ∧ c.endMsgTimeoutUs ≤ c.ctrMax ∧
  c.injectDelayUs ≤ c.ctrMax ∧ c.injectUs ≤ c.ctrMax ∧ c.rbSampleUs ≤ c.ctrMax ∧
  c.replyGapUs ≤ c.ctrMax ∧ c.pollPeriodUs ≤ c.ctrMax

/-- The length conditions of 00_scope.md R9, with the lengths that the buffers of 10_state.md R26, R30
to R32 fix, the tick of one microsecond of R8 and the 16-bit counters of 10_state.md R22 (log entry 5,
DEDUCED). -/
abbrev Config.lengths (c : Config) : Prop :=
  c.pktLen = c.hdrLen + c.payloadLen + 1 ∧ c.burstLen = c.payloadLen + 1 ∧
  c.hdrLen = 2 ∧ c.payloadLen = 10 ∧ c.tickUs = 1 ∧ c.ctrMax < 65536

/-- A well-formed configuration record (00_scope.md R9). -/
abbrev Config.wellFormed (c : Config) : Prop := c.ordered ∧ c.inRange ∧ c.lengths

end Sys2Proof
end

