-- ==== Sys2Proof/Machine/State.lean ====
section
/-! DEFINITION. The state of the machine as plain data: every element of 10_state.md, the run's
constants and inputs (log entries 1 to 4), the surrounding software's text session and its unused
opportunity (log entries 14 and 22), and the model's own ephemeral field (log entry 11); and the state after hardware reset (R45). -/

namespace Sys2Proof.Machine

open Sys2Proof

/-- `link_state` (10_state.md R25). The code 3 is never produced (30_encoding.md R93). -/
inductive LinkState where
  /-- `AwaitingSync`, code 0 -/
  | awaitingSync
  /-- `ResetDetected`, code 1 -/
  | resetDetected
  /-- `GatheringPacket`, code 2 -/
  | gatheringPacket
deriving DecidableEq, Repr

/-- `tx_state` (10_state.md R36). -/
inductive TxState where
  /-- `T_IDLE`, code 0 -/
  | idle
  /-- `T_PLAY`, code 1 -/
  | play
  /-- `T_RB`, code 2 -/
  | readBack
deriving DecidableEq, Repr

/-- `inj_state` (10_state.md R42). -/
inductive InjState where
  /-- `I_OFF`, code 0 -/
  | off
  /-- `I_WAIT`, code 1 -/
  | wait
  /-- `I_DRIVE`, code 2 -/
  | drive
deriving DecidableEq, Repr

/-- A segment of the player's work list (10_state.md R41). -/
inductive Segment where
  /-- `D0(n)`: drive LOW for n ticks -/
  | d0 (n : Nat)
  /-- `D1(n)`: drive HIGH for n ticks -/
  | d1 (n : Nat)
  /-- `Z(n)`: release the line for n ticks -/
  | z (n : Nat)
  /-- `ZS(n, i, k)`: release for n ticks and, k ticks after it began, sample into `rb_vec[i]` -/
  | zs (n i k : Nat)
deriving DecidableEq, Repr

/-- What the PulseClock reports in a tick: at most one edge, with the ticks the old level was held
(00_scope.md R13, 40_pulse_decoder.md R120). -/
inductive Edge where
  | none
  | rising (d : Nat)
  | falling (d : Nat)
deriving DecidableEq, Repr

/-- The named bits of a host-emulation flag byte (44_arbitration_header.md R197). -/
structure HostFlags where
  dataAvailN : Bool
  busAvail : Bool
  error : Bool
  hostReady : Bool
deriving DecidableEq, Repr

/-- The named bits of a remote-emulation flag byte (44_arbitration_header.md R197). -/
structure RemoteFlags where
  readyForText : Bool
  timerRequest : Bool
  txReady : Bool
  error : Bool
  isInit : Bool
deriving DecidableEq, Repr

/-- The value an operation hands on inside a tick: the ephemeral Pulse (10_state.md R23), a parity byte
or verdict (42_parity.md R155 to R157), a header view or byte (44_arbitration_header.md R197, R198), the
chunker's completion flag (49_text_chunker_boundary.md R308). The model's own (log entry 11). -/
inductive Ephemeral where
  | empty
  | edge (e : Edge)
  | byte (b : Byte)
  | verdict (ok : Bool)
  | hostHeader (h : HostFlags)
  | remoteHeader (r : RemoteFlags)
  | chunkDone (complete : Bool)
deriving DecidableEq, Repr

/-- The source's TextSession (49_text_chunker_boundary.md R306): `cursor` is `next_unsent_index`, and
`active` says that a session exists and is not complete. Not state of the block. -/
structure TextSession where
  text : List Byte
  cursor : Nat
  active : Bool
deriving DecidableEq, Repr

/-- How the line comes to its level in a tick: the trace lists `line_in` itself (00_scope.md R17), or
the bench net resolves it from this block's drive and a peer's (20_memory.md R73). -/
inductive LineIn where
  | sampled (level : Level)
  | peer (drive : Drive)
deriving DecidableEq, Repr

/-- What the host's side presents in a tick: the command port's signals (10_state.md R20), one operation
word in their place (log entry 9), or a new text for the chunker (49_text_chunker_boundary.md R306). That a
new text and a command do not come in one tick is the model's (DESIGN CHOICE, log entry 26). -/
inductive HostIn where
  | port (p : HostPort)
  | request (word : List Byte)
  | newText (text : List Byte)
deriving DecidableEq, Repr

/-- The inputs of one tick (00_scope.md R17, 10_state.md R20). `pins` is `none` where the configuration
inputs stay as they are. -/
structure TickInput where
  rst : Bool
  pins : Option Pins
  line : LineIn
  host : HostIn
deriving DecidableEq, Repr

/-- The state. The first group is the block's (10_state.md R21 to R42), the second the run's, the third
the surrounding software's (`text`, and `textReady`: a `TAKE 1` has answered 1 and no fragment has used
the opportunity, 49_text_chunker_boundary.md R307), the last the model's own. Tick counters are unsigned counts that saturate
at `CTR_MAX` and stay below 65536 (42_parity.md R159; log entry 18). -/
structure State where
  prevLevel : Level
  tEdge : Nat
  linkState : LinkState
  bitIdx : Nat
  byteIdx : Nat
  curByte : Byte
  pkt : Vector Byte 13
  qBuf : Vector Byte 10
  qLen : Nat
  txbuf : Vector Byte 10
  rxPayload : Vector Byte 10
  rxValid : Bool
  outFlags : Byte
  peerFlags : Byte
  hdrA : Byte
  hdrARx : Byte
  rbVec : Byte
  diag : Byte
  cmdOk : Bool
  cmdResult : Bool
  txState : TxState
  txSlot : Nat
  txrSeen : Bool
  idleCtr : Nat
  segs : List Segment
  segRem : Nat
  injState : InjState
  injCtr : Nat
  cfg : Config
  pins : Pins
  trace : List TickInput
  net : Level
  text : TextSession
  textReady : Bool
  ephem : Ephemeral
deriving DecidableEq, Repr

/-- Why a run has no defined continuation. -/
inductive Fault where
  /-- Raised by `step` when the bench net has one party driving HIGH and another LOW in the same tick
  (20_memory.md R74, 93_implementation_defined.md U1). Safe: the spec gives the run no continuation. -/
  | contention
  /-- Raised by `step` when a configuration input differs from its value while `rst` = 0
  (93_implementation_defined.md U14). Safe: the spec gives the run no continuation. -/
  | configChanged
deriving DecidableEq, Repr

/-- Why the model does not run something. -/
inductive Refusal where
  /-- Raised by `exec` for an operation that has no meaning yet. Safe. -/
  | notModelled (mnemonic : String)
  /-- Raised by `step` for a configuration that is not well-formed (00_scope.md R9,
  93_implementation_defined.md U5). Safe: nothing is claimed about an ill-formed one. -/
  | illFormedConfig
  /-- Raised by `step` for a host request whose bytes the decoder rejects (log entry 9). Safe. -/
  | illegalWord (why : DecodeError)
  /-- Raised by `step` for a host request that is no operation a host can ask for: a line symbol, a
  frame or an internal event happens by the line and the engine only (log entry 9). Safe. -/
  | notHostRequest
deriving DecidableEq, Repr

/-- A buffer of zero bytes. -/
def zeros (n : Nat) : Vector Byte n := Vector.replicate n 0x00#8

/-- The configuration inputs of `State.reset`: the receive role with every enable 0 (log entry 1). -/
def pinsAtReset : Pins := ⟨.rx, false, false, false⟩

/-- The hardware-reset state (10_state.md R45, 70_reset_and_hazards.md R350), with the run's constants
at their defaults (00_scope.md R7), no input listed and the net at the idle level (20_memory.md R73). -/
def State.reset : State where
  prevLevel := .high
  tEdge := 0
  linkState := .awaitingSync
  bitIdx := 0
  byteIdx := 0
  curByte := 0x00#8
  pkt := zeros 13
  qBuf := zeros 10
  qLen := 0
  txbuf := zeros 10
  rxPayload := zeros 10
  rxValid := false
  outFlags := 0x00#8
  peerFlags := 0x00#8
  hdrA := 0x00#8
  hdrARx := 0x00#8
  rbVec := 0x00#8
  diag := 0x00#8
  cmdOk := false
  cmdResult := false
  txState := .idle
  txSlot := 0
  txrSeen := false
  idleCtr := 0
  segs := []
  segRem := 0
  injState := .off
  injCtr := 0
  cfg := Config.default
  pins := pinsAtReset
  trace := []
  net := .high
  text := ⟨[], 0, false⟩
  textReady := false
  ephem := .empty

end Sys2Proof.Machine
end

