-- ==== Sys2Proof/Machine/Operands.lean ====
section
/-! DEFINITION. Operand forms and the block's arithmetic: bits and bytes of a register or buffer, padding
and counting (30_encoding.md R92), the exclusive-or fold (42_parity.md R155), the waveforms of a symbol
and a frame as lists of segments (43_pulse_encoder.md R165 to R172), and reading a waveform back. -/

namespace Sys2Proof.Machine

open Sys2Proof

/-! ## Bits and buffers -/

/-- `v[i]` (00_scope.md R11). -/
def bitOf (v : Byte) (i : Nat) : Bool := v.getLsbD i

/-- `v[i] <- b`. -/
def setBitTo (v : Byte) (i : Nat) (b : Bool) : Byte :=
  if b then v ||| (1#8 <<< i) else v &&& ~~~(1#8 <<< i)

/-- Element `i` of a buffer. The index is always in range where a rule reads one (20_memory.md R60). -/
def byteAt {n : Nat} (buf : Vector Byte n) (i : Nat) : Byte := buf.toList.getD i 0x00#8

/-- `buf[i] <- v`. -/
def putByte {n : Nat} (buf : Vector Byte n) (i : Nat) (v : Byte) : Vector Byte n :=
  buf.setIfInBounds i v

/-- A list of bytes as a buffer: zeros follow where it is short. -/
def bufOfList (n : Nat) (l : List Byte) : Vector Byte n :=
  ⟨((l ++ List.replicate n 0x00#8).take n).toArray, by simp⟩

/-- `pad10(list)` (00_scope.md R12, 30_encoding.md R92 (d)). -/
def pad10 (l : List Byte) : Vector Byte 10 := bufOfList 10 l

/-- `xor_fold(list)` (42_parity.md R155). -/
def xorFold : List Byte → Byte
  | [] => 0x00#8
  | b :: rest => b ^^^ xorFold rest

/-- The bit index of TAKE: `cmd_arg[2:0]` (30_encoding.md R92 (f)). -/
def takeIndex (arg : Byte) : Nat := arg.toNat % 8

/-- `sat(n)` (00_scope.md R12). -/
def sat (cfg : Config) (n : Nat) : Nat := min n cfg.ctrMax

/-- The level of a bit. -/
def levelBit : Level → Bool
  | .low => false
  | .high => true

/-- The track number in a register byte (48_command_vocabulary.md R294): two decimal digits. The
excluded layer's formula, kept because the spec states it. -/
def trackOfRegister (b : Byte) : Nat := b.toNat / 16 * 10 + b.toNat % 16

/-- The register byte of a track number 0 to 99 (48_command_vocabulary.md R294). -/
def registerOfTrack (track : Nat) : Byte :=
  (BitVec.ofNat 8 (track / 10) <<< 4) ||| BitVec.ofNat 8 (track % 10)

/-! ## Segments and waveforms -/

/-- The length of a segment in ticks (10_state.md R41). -/
def Segment.length : Segment → Nat
  | .d0 n => n
  | .d1 n => n
  | .z n => n
  | .zs n _ _ => n

/-- What a segment does to the line (10_state.md R41). -/
def Segment.lineDrive : Segment → Drive
  | .d0 _ => .low
  | .d1 _ => .high
  | .z _ => .released
  | .zs _ _ _ => .released

/-- `cell(1)` (43_pulse_encoder.md R166). -/
def cellOne (cfg : Config) : List Segment := [.d0 cfg.sUs, .d1 cfg.lUs]

/-- `cell(0)` (43_pulse_encoder.md R167). -/
def cellZero (cfg : Config) : List Segment := [.d0 cfg.sUs, .d0 cfg.lUs, .d1 cfg.high0Us]

/-- `ovl(i)`: a `ZERO` as overlay cell `i` (43_pulse_encoder.md R168). -/
def cellOverlay (cfg : Config) (i : Nat) : List Segment :=
  [.d0 cfg.sUs, .zs cfg.lUs i (cfg.rbSampleUs - cfg.sUs), .d1 cfg.high0Us]

/-- `wave_reset` (43_pulse_encoder.md R169). -/
def waveReset (cfg : Config) : List Segment := [.d0 cfg.resetTxLowUs, .d1 cfg.resetTxHighUs]

/-- Cell `i` of a byte: `c(i)` of 43_pulse_encoder.md R170. -/
def cell (cfg : Config) (v m : Byte) (i : Nat) : List Segment :=
  if bitOf v i then cellOne cfg else if bitOf m i then cellOverlay cfg i else cellZero cfg

/-- The idle gap after a byte. A gap of no ticks is no segment (log entry 6). -/
def idleGap (cfg : Config) : List Segment := if cfg.idleUs = 0 then [] else [.d1 cfg.idleUs]

/-- `wave_byte(v, m)`: eight cells, bit 0 first, then the idle gap (43_pulse_encoder.md R170). -/
def waveByte (cfg : Config) (v m : Byte) : List Segment :=
  cell cfg v m 0 ++ cell cfg v m 1 ++ cell cfg v m 2 ++ cell cfg v m 3 ++ cell cfg v m 4 ++
    cell cfg v m 5 ++ cell cfg v m 6 ++ cell cfg v m 7 ++ idleGap cfg

/-- Plain bytes one after another. -/
def waveBytes (cfg : Config) : List Byte → List Segment
  | [] => []
  | v :: rest => waveByte cfg v 0x00#8 ++ waveBytes cfg rest

/-- `wave_packet(a, f, p, m)` (43_pulse_encoder.md R171). -/
def wavePacket (cfg : Config) (a f : Byte) (p : List Byte) (m : Byte) : List Segment :=
  waveReset cfg ++ waveByte cfg a m ++ waveByte cfg f 0x00#8 ++ waveBytes cfg p ++
    waveByte cfg (xorFold p) 0x00#8

/-- `wave_burst(p)` (43_pulse_encoder.md R172). -/
def waveBurst (cfg : Config) (p : List Byte) : List Segment :=
  [.z cfg.replyGapUs] ++ waveBytes cfg p ++ waveByte cfg (xorFold p) 0x00#8

/-- The length of a waveform in ticks (30_encoding.md R83). -/
def waveTicks (w : List Segment) : Nat := (w.map Segment.length).sum

/-- What a waveform does to the line tick by tick: a segment of length n is n ticks on the pins
(43_pulse_encoder.md R175). -/
def waveDrives (w : List Segment) : List Drive :=
  w.flatMap fun g => List.replicate g.length g.lineDrive

/-! ## Reading a waveform back

What a listener measures when the waveform is alone on a net with a keeper (20_memory.md R73). -/

/-- The LOW time before each rising edge, `low` being the LOW time so far. -/
def lowPhases : Nat → List Segment → List Nat
  | _, [] => []
  | low, .d0 n :: w => lowPhases (low + n) w
  | 0, .d1 _ :: w => lowPhases 0 w
  | low + 1, .d1 _ :: w => (low + 1) :: lowPhases 0 w
  | 0, .z _ :: w => lowPhases 0 w
  | low + 1, .z n :: w => lowPhases (low + 1 + n) w
  | 0, .zs _ _ _ :: w => lowPhases 0 w
  | low + 1, .zs n _ _ :: w => lowPhases (low + 1 + n) w

/-- The symbols of a waveform (30_encoding.md R81). -/
def waveSymbols (cfg : Config) (w : List Segment) : List Symbol :=
  (lowPhases 0 w).map (classify cfg)

/-- The bit value of a symbol: only a `ONE` is 1 (30_encoding.md R92 (b)). -/
def symbolBit : Symbol → Bool
  | .one => true
  | _ => false

/-- A byte of eight bits, the first of them bit 0 (20_memory.md R62). -/
def byteOfBits (b0 b1 b2 b3 b4 b5 b6 b7 : Bool) : Byte :=
  setBitTo (setBitTo (setBitTo (setBitTo (setBitTo (setBitTo (setBitTo (setBitTo 0x00#8
    0 b0) 1 b1) 2 b2) 3 b3) 4 b4) 5 b5) 6 b6) 7 b7

/-- The bytes of a list of bit symbols, eight a byte (20_memory.md R62, R65). -/
def bytesOfSymbols : List Symbol → List Byte
  | b0 :: b1 :: b2 :: b3 :: b4 :: b5 :: b6 :: b7 :: rest =>
    byteOfBits (symbolBit b0) (symbolBit b1) (symbolBit b2) (symbolBit b3) (symbolBit b4)
      (symbolBit b5) (symbolBit b6) (symbolBit b7) :: bytesOfSymbols rest
  | _ => []

end Sys2Proof.Machine
end

