-- ==== Sys2Proof/Machine/Flags.lean ====
section
/-! DEFINITION. The flag bytes (44_arbitration_header.md R185 to R198) and the condition marks of `diag`
(60_exceptions.md R321). -/

namespace Sys2Proof.Machine

open Sys2Proof

/-! ## The two vocabularies -/

/-- The decoded view of a host-emulation flag byte (44_arbitration_header.md R197). -/
def hostFlags (b : Byte) : HostFlags where
  dataAvailN := bitOf b 0
  busAvail := bitOf b 4
  error := bitOf b 6
  hostReady := bitOf b 7

/-- The decoded view of a remote-emulation flag byte (44_arbitration_header.md R197). -/
def remoteFlags (b : Byte) : RemoteFlags where
  readyForText := bitOf b 1
  timerRequest := bitOf b 2
  txReady := bitOf b 4
  error := bitOf b 6
  isInit := bitOf b 7

/-- The bits a party owns (44_arbitration_header.md R195). -/
def ownMask (cfg : Config) : Role → Byte
  | .tx => cfg.hostOwnMask
  | .rx => cfg.remoteOwnMask

/-- The overlay vector folded into the peer's flags: one-shot bits accumulate, every other bit follows
the vector (46_link_tx.md R238). -/
def foldFlags (cfg : Config) (peer vec : Byte) : Byte := (peer &&& cfg.oneshotMask) ||| vec

/-! ## Conditions -/

/-- The error conditions (60_exceptions.md R321). -/
inductive Condition where
  | framingNoise
  | parityMismatch
  | prematureReset
  | peerNotReady
  | starvation
  | readBackAbort
deriving DecidableEq, Repr

/-- `diag` bit 0, `PARITY_ERR`. -/
def parityErr : Byte := 0x01#8
/-- `diag` bit 1, `UNEXP_RESET`. -/
def unexpReset : Byte := 0x02#8
/-- `diag` bit 2, `TIMEOUT`. -/
def timeoutErr : Byte := 0x04#8
/-- `diag` bit 3, `RB_ABORT`. -/
def rbAbortErr : Byte := 0x08#8
/-- `diag` bit 4, `TRUNC_PKT`. -/
def truncPkt : Byte := 0x10#8

/-- The bits gathered in the current frame (30_encoding.md R92 (e)). -/
def gatheredBits (s : State) : Nat := 8 * s.byteIdx + s.bitIdx

/-- The `diag` bits a condition sets (60_exceptions.md R321, R322 to R327). -/
def conditionMarks (s : State) : Condition → Byte
  | .framingNoise => 0x00#8
  | .parityMismatch => parityErr
  | .prematureReset =>
    (if s.cfg.minLogBits ≤ gatheredBits s then unexpReset else 0x00#8) |||
    (if s.cfg.minValidBytes ≤ s.byteIdx then truncPkt else 0x00#8)
  | .peerNotReady => 0x00#8
  | .starvation => timeoutErr
  | .readBackAbort => rbAbortErr

end Sys2Proof.Machine
end

