-- ==== Sys2Proof/Machine/Ops.lean ====
section
/-! DEFINITION. The named operations that the meanings share: the host port's answers, the PulseClock, the
assembler, the player, the error conditions (what stands for taking an exception, 60_exceptions.md
R333), completion of a frame, the steps of the receive role and of the transmit role. Each is the
effect in full; the meanings add the trigger under which the block performs it. -/

namespace Sys2Proof.Machine

open Sys2Proof

/-- What a step or a meaning answers. -/
abbrev Outcome := Host.Outcome State Fault Refusal

/-- The next sub-step of a tick, if the earlier one gave a next state. -/
def andThen (o : Outcome) (f : State → Outcome) : Outcome :=
  match o with
  | .next s => f s
  | .fault r => .fault r
  | .refused r => .refused r

/-! ## Host port -/

/-- The response to a host command: `cmd_ok` and `cmd_result` (47_host_commands.md R265). -/
def respond (ok result : Bool) (s : State) : State := { s with cmdOk := ok, cmdResult := result }

/-- The one-tick outputs fall (20_memory.md R70 sub-step 2). -/
def clearPulses (s : State) : State := { s with rxValid := false, cmdOk := false, cmdResult := false }

/-- SEND's test (47_host_commands.md R267). -/
abbrev sendAccepted (len : Nat) (s : State) : Prop := s.qLen = 0 ∧ 1 ≤ len ∧ len ≤ 10

/-- SEND: enqueue one outbound buffer, or refuse it with nothing changed (47_host_commands.md R267). -/
def enqueue (len : Nat) (data : List Byte) (s : State) : State :=
  if sendAccepted len s then
    respond true false { s with qBuf := pad10 (data.take len), qLen := len }
  else respond false false s

/-- The answer of TAKE `k` is an opportunity of the chunker: `READY_FOR_TEXT` taken with answer 1 by the
host of a transmit-role instance (49_text_chunker_boundary.md R305, R307). -/
def isOpportunity (k : Nat) (s : State) : Bool :=
  decide (s.pins.role = .tx) && decide (k = 1) && bitOf s.peerFlags k

/-- TAKE: check and clear bit `k` of `peer_flags` in one step (47_host_commands.md R268). The host's
software notes an opportunity; one that is still unused is not counted twice (log entry 22). -/
def takeBit (k : Nat) (s : State) : State :=
  respond true (bitOf s.peerFlags k)
    { s with peerFlags := setBitTo s.peerFlags k false,
             textReady := s.textReady || isOpportunity k s }

/-- SETF: set the owned bits of a mask in `out_flags` (47_host_commands.md R269). -/
def setFlags (m : Byte) (s : State) : State :=
  respond true false { s with outFlags := s.outFlags ||| (m &&& ownMask s.cfg s.pins.role) }

/-- CLRF: clear the bits of a mask in `out_flags` (47_host_commands.md R270). -/
def clearFlags (m : Byte) (s : State) : State :=
  respond true false { s with outFlags := s.outFlags &&& ~~~m }

/-- CLRD: clear the bits of a mask in `diag` (47_host_commands.md R272). -/
def clearDiag (m : Byte) (s : State) : State := respond true false { s with diag := s.diag &&& ~~~m }

/-! ## PulseClock -/

/-- The edge that a sample shows (40_pulse_decoder.md R120). -/
def edgeOf (line : Level) (s : State) : Edge :=
  if line = s.prevLevel then .none
  else match line with
    | .high => .rising s.tEdge
    | .low => .falling s.tEdge

/-- The PulseClock step; the edge is handed on (40_pulse_decoder.md R120). -/
def clockStep (line : Level) (s : State) : State :=
  if line = s.prevLevel then
    { s with tEdge := sat s.cfg (s.tEdge + 1), ephem := .edge .none }
  else
    { s with prevLevel := line, tEdge := 1, ephem := .edge (edgeOf line s) }

/-! ## Player -/

/-- `play(list)` (43_pulse_encoder.md R175). -/
def play (w : List Segment) (s : State) : State :=
  { s with segs := w, segRem := (w.head?.map Segment.length).getD 0, txState := .play }

/-- The overlay sample: the head is `ZS(n, i, k)` and k of its ticks have run (43_pulse_encoder.md R168,
R175; 46_link_tx.md R237). -/
def sampleOverlay (line : Level) (s : State) : State :=
  match s.segs with
  | .zs n i k :: _ =>
    if n = k + s.segRem then { s with rbVec := setBitTo s.rbVec i (levelBit line) } else s
  | _ => s

/-- One tick of the head segment (43_pulse_encoder.md R175, without the list-empty action). -/
def advancePlayer (s : State) : State :=
  match s.segs with
  | [] => s
  | _ :: rest =>
    if 1 < s.segRem then { s with segRem := s.segRem - 1 }
    else match rest with
      | [] => { s with segs := [] }
      | g :: _ => { s with segs := rest, segRem := g.length }

/-! ## Assembler -/

/-- The length of the frame a role gathers (41_packet_assembler.md R141, 30_encoding.md R95). -/
def frameLen (s : State) : Nat :=
  match s.pins.role with
  | .rx => s.cfg.pktLen
  | .tx => s.cfg.burstLen

/-- `ASM.START`: begin a new frame; `pkt` is not cleared (41_packet_assembler.md R140). -/
def startFrame (s : State) : State := { s with bitIdx := 0, byteIdx := 0, curByte := 0x00#8 }

/-- `ASM.ABANDON`: give up the current frame (41_packet_assembler.md R142). -/
def abandonFrame (s : State) : State := { s with bitIdx := 0, byteIdx := 0, curByte := 0x00#8 }

/-- The byte under assembly with one more bit at `bit_idx` (41_packet_assembler.md R141). -/
def withBit (b : Bool) (s : State) : Byte :=
  s.curByte ||| ((if b then 1#8 else 0#8) <<< s.bitIdx)

/-- `ASM.BIT` without the completion test: append one bit, store the byte after its eighth
(41_packet_assembler.md R141). -/
def appendBit (b : Bool) (s : State) : State :=
  if s.bitIdx < 7 then { s with curByte := withBit b s, bitIdx := s.bitIdx + 1 }
  else
    { s with pkt := putByte s.pkt s.byteIdx (withBit b s), byteIdx := s.byteIdx + 1, bitIdx := 0,
             curByte := 0x00#8 }

/-! ## Conditions: what stands for taking an exception -/

/-- The restart state a failure or a completion leads to: `AS` in the receive role, `T_IDLE` with the
idle count at 0 in the transmit role (60_exceptions.md R333; 45_link_rx.md R209 to R211, 46_link_tx.md
R246 to R248). -/
def toRestart (s : State) : State :=
  match s.pins.role with
  | .rx => { s with linkState := .awaitingSync }
  | .tx => { s with txState := .idle, idleCtr := 0 }

/-- Set a condition's sticky marks in `diag` (10_state.md R38, 60_exceptions.md R321). -/
def mark (c : Condition) (s : State) : State := { s with diag := s.diag ||| conditionMarks s c }

/-- `raise <Condition>`: the whole response of 60_exceptions.md R322 to R327, done in the step that found
the condition. Nothing is saved and nothing is returned from (R333). -/
def raise (c : Condition) (s : State) : State :=
  match c with
  | .framingNoise => s
  | .peerNotReady => toRestart { s with byteIdx := 0 }
  | .parityMismatch => toRestart { mark .parityMismatch s with byteIdx := 0 }
  | .prematureReset => toRestart (abandonFrame (mark .prematureReset s))
  | .starvation => toRestart (abandonFrame (mark .starvation s))
  | .readBackAbort => toRestart (abandonFrame (mark .readBackAbort s))

/-! ## Completion of a frame -/

/-- The ready gate: the peer's `HOST_READY` in byte 1 (41_packet_assembler.md R144). -/
def gateOpen (s : State) : Bool := bitOf (byteAt s.pkt 1) 7

/-- `BUS_AVAIL` in byte 1 of the packet just received (44_arbitration_header.md R188). -/
def busGranted (s : State) : Bool := bitOf (byteAt s.pkt 1) 4

/-- The payload of a gathered packet: `pkt[2..11]` (20_memory.md R64). -/
def packetPayload (s : State) : List Byte := (s.pkt.toList.drop 2).take 10

/-- The payload of a gathered burst: `pkt[0..9]` (20_memory.md R64). -/
def burstPayload (s : State) : List Byte := s.pkt.toList.take 10

/-- `PAR.CHECK` on a packet (42_parity.md R156). -/
def packetParityOk (s : State) : Bool := byteAt s.pkt 12 == xorFold (packetPayload s)

/-- `PAR.CHECK` on a burst (42_parity.md R156). -/
def burstParityOk (s : State) : Bool := byteAt s.pkt 10 == xorFold (burstPayload s)

/-- Delivery of a packet (41_packet_assembler.md R144). -/
def deliverPacket (s : State) : State :=
  { s with hdrARx := byteAt s.pkt 0, peerFlags := byteAt s.pkt 1,
           rxPayload := bufOfList 10 (packetPayload s), rxValid := true }

/-- Delivery of a read-back burst; `peer_flags` is unchanged (46_link_tx.md R246). -/
def deliverBurst (s : State) : State :=
  { s with rxPayload := bufOfList 10 (burstPayload s), rxValid := true }

/-- The queued buffer padded to ten bytes: `pad10(q_buf[0..q_len-1])` (30_encoding.md R92 (d)). -/
def queuedPayload (s : State) : Vector Byte 10 := pad10 (s.qBuf.toList.take s.qLen)

/-- The conditions of the reply beside the accepted packet (45_link_rx.md R216). -/
abbrev replyGranted (s : State) : Prop :=
  s.pins.replyEn = true ∧ busGranted s = true ∧ 0 < s.qLen

/-- Start the reply burst (45_link_rx.md R216). -/
def startReply (s : State) : State :=
  play (waveBurst s.cfg (queuedPayload s).toList) { s with txbuf := queuedPayload s, qLen := 0 }

/-- The last line of 41_packet_assembler.md R144. -/
def replyIfGranted (s : State) : State := if replyGranted s then startReply s else s

/-- Completion of a packet in the receive role: the ready gate, then the parity, then delivery and the
reply; then `byte_idx` goes to 0 and the state to `AS` (41_packet_assembler.md R143, R144). -/
def finishPacket (s : State) : State :=
  if gateOpen s = false then raise .peerNotReady s
  else if packetParityOk s = false then raise .parityMismatch s
  else toRestart { replyIfGranted (deliverPacket s) with byteIdx := 0 }

/-- Completion of a read-back burst in the transmit role (46_link_tx.md R246). -/
def finishBurst (s : State) : State :=
  if burstParityOk s = false then raise .parityMismatch s
  else toRestart { deliverBurst s with byteIdx := 0 }

/-- The `ASM.COMPLETE` test (41_packet_assembler.md R143). -/
def completeIfFull (s : State) : State :=
  if s.byteIdx = frameLen s then
    match s.pins.role with
    | .rx => finishPacket s
    | .tx => if s.txState = .readBack then finishBurst s else s
  else s

/-- `ASM.BIT` with the completion test that follows it (41_packet_assembler.md R141). -/
def assembleBit (b : Bool) (s : State) : State :=
  if s.byteIdx < frameLen s then completeIfFull (appendBit b s) else s

/-- A whole byte as received: eight `ASM.BIT`s, bit 0 first (20_memory.md R62). -/
def assembleByte (v : Byte) (s : State) : State :=
  assembleBit (bitOf v 7) (assembleBit (bitOf v 6) (assembleBit (bitOf v 5) (assembleBit (bitOf v 4)
    (assembleBit (bitOf v 3) (assembleBit (bitOf v 2) (assembleBit (bitOf v 1)
      (assembleBit (bitOf v 0) s)))))))

/-! ## Receive role -/

/-- The receive role's machine runs: its own burst is not playing (45_link_rx.md R205, R218). -/
abbrev listening (s : State) : Prop := s.pins.role = .rx ∧ s.txState = .idle

/-- The receive role has gathered a whole packet (41_packet_assembler.md R143). -/
abbrev packetGathered (s : State) : Prop := s.pins.role = .rx ∧ s.byteIdx = s.cfg.pktLen

/-- The gathered packet passes the gate and the parity check (41_packet_assembler.md R144). -/
abbrev packetAccepted (s : State) : Prop :=
  packetGathered s ∧ gateOpen s = true ∧ packetParityOk s = true

/-- The condition under which the inject is armed (45_link_rx.md R213). -/
abbrev injectWanted (s : State) : Prop := s.pins.injEn = true ∧ s.outFlags ≠ 0x00#8

/-- Arm the inject (45_link_rx.md R213). -/
def armInject (s : State) : State :=
  if injectWanted s then { s with injState := .wait, injCtr := s.cfg.injectDelayUs } else s

/-- One tick of the inject machine (45_link_rx.md R214, R215). -/
def injectTick (line : Level) (s : State) : State :=
  match s.injState with
  | .off => s
  | .wait =>
    if 1 < s.injCtr then { s with injCtr := s.injCtr - 1 }
    else match line with
      | .low => { s with injState := .drive, injCtr := s.cfg.injectUs }
      | .high => { s with injState := .off }
  | .drive =>
    if 1 < s.injCtr then { s with injCtr := s.injCtr - 1 } else { s with injState := .off }

/-- `RX.SYNC` (45_link_rx.md R206). -/
def syncLink (s : State) : State := { s with linkState := .resetDetected }

/-- `RX.START` (45_link_rx.md R207). -/
def startGathering (s : State) : State :=
  armInject (startFrame { s with linkState := .gatheringPacket })

/-- The wait for an edge has lasted `END_MSG_TIMEOUT_US` (45_link_rx.md R211, 46_link_tx.md R248). -/
abbrev timedOut (s : State) : Prop := s.cfg.endMsgTimeoutUs ≤ s.tEdge

/-- The end of the reply burst (45_link_rx.md R217). -/
def endReply (s : State) : State := { s with txState := .idle }

/-! ## Transmit role -/

/-- The condition of `TX.START` (46_link_tx.md R232). -/
abbrev cycleDue (s : State) : Prop := 0 < s.qLen ∨ s.cfg.pollPeriodUs ≤ s.idleCtr

/-- `TX.PREAMBLE`: slot 0 plays the reset waveform (46_link_tx.md R235). -/
def playPreamble (s : State) : State := play (waveReset s.cfg) { s with txSlot := 0 }

/-- `TX.START`: start a cycle or count one more idle tick (46_link_tx.md R232). -/
def startCycle (s : State) : State :=
  if cycleDue s then playPreamble { s with rbVec := 0x00#8, txrSeen := false, idleCtr := 0 }
  else { s with idleCtr := sat s.cfg (s.idleCtr + 1) }

/-- The player has just consumed the last tick of slot `k` of a transmit cycle (46_link_tx.md R234). -/
abbrev slotEnded (k : Nat) (s : State) : Prop :=
  s.pins.role = .tx ∧ s.txState = .play ∧ s.segs = [] ∧ s.txSlot = k

/-- The overlay mask of byte 0: every cell when `RB_EN` = 1 (46_link_tx.md R234, R236). -/
def overlayMask (s : State) : Byte := if s.pins.rbEn then 0xFF#8 else 0x00#8

/-- `TX.HDRA` (46_link_tx.md R234, R236). -/
def playHeader (s : State) : State :=
  play (waveByte s.cfg s.hdrA (overlayMask s)) { s with txSlot := 1 }

/-- `TX.FOLD` (46_link_tx.md R238). -/
def foldOverlay (s : State) : State :=
  { s with peerFlags := foldFlags s.cfg s.peerFlags s.rbVec, txrSeen := bitOf s.rbVec 4 }

/-- `TX.FLAGS` (46_link_tx.md R234, R239). -/
def playFlags (s : State) : State :=
  play (waveByte s.cfg s.outFlags 0x00#8) { s with txSlot := 2 }

/-- `TX.DEQUEUE`: the queued buffer, or the keep-alive's ten zero bytes (46_link_tx.md R240). -/
def dequeue (s : State) : State :=
  if 0 < s.qLen then { s with txbuf := queuedPayload s, qLen := 0 }
  else { s with txbuf := zeros 10 }

/-- `TX.PAYLOAD` when slot `s` (2 to 11) has ended: the next slot plays `txbuf[s - 2]`
(46_link_tx.md R234, R241). -/
def playPayload (s : State) : State :=
  play (waveByte s.cfg (byteAt s.txbuf (s.txSlot - 2)) 0x00#8) { s with txSlot := s.txSlot + 1 }

/-- `TX.PARITY` (46_link_tx.md R234, R241; 42_parity.md R157). -/
def playParity (s : State) : State :=
  play (waveByte s.cfg (xorFold s.txbuf.toList) 0x00#8) { s with txSlot := 13 }

/-- `TX.END` (46_link_tx.md R242). -/
def endCycle (s : State) : State := { s with txState := .idle, txSlot := 0, idleCtr := 0 }

/-- `RB.ENTER` (46_link_tx.md R243). -/
def enterReadBack (s : State) : State := startFrame { s with txState := .readBack, txSlot := 0 }

/-- The list-empty action of the transmit role, by the slot just ended (46_link_tx.md R234). No slot
above 13 exists (10_state.md R36). -/
def slotAction (s : State) : State :=
  match s.txSlot with
  | 0 => playHeader s
  | 1 => playFlags (foldOverlay s)
  | 2 => playPayload (dequeue s)
  | 12 => playParity s
  | 13 => if s.txrSeen then enterReadBack s else endCycle s
  | k => if k < 12 then playPayload s else s

/-- The list-empty action of the role (43_pulse_encoder.md R175; 45_link_rx.md R217, 46_link_tx.md
R234). -/
def listEmptyAction (s : State) : State :=
  match s.pins.role with
  | .rx => endReply s
  | .tx => slotAction s

/-- The list-empty action runs in the step that emptied the list. -/
def actIfEmpty (s : State) : State := if s.segs = [] then listEmptyAction s else s

/-- The player step (43_pulse_encoder.md R175). In `T_PLAY` the list is not empty. -/
def playTick (line : Level) (s : State) : State :=
  if s.txState = .play ∧ s.segs ≠ [] then actIfEmpty (advancePlayer (sampleOverlay line s)) else s

/-- The transmit role is reading a burst back (46_link_tx.md R243). -/
abbrev readingBack (s : State) : Prop := s.pins.role = .tx ∧ s.txState = .readBack

/-! ## Who consumes a symbol -/

/-- The bit of a bit symbol goes to `RX.BIT` in `GP` and to `RB.BIT` in `T_RB` (40_pulse_decoder.md R126;
45_link_rx.md R208, 46_link_tx.md R244). -/
def consumeBit (b : Bool) (s : State) : State :=
  if listening s ∧ s.linkState = .gatheringPacket then assembleBit b s
  else if readingBack s then assembleBit b s
  else s

/-- A `RESET` symbol: `RX.SYNC` in `AS`, `RX.RESYNC` in `GP`, `RB.ABORT` in `T_RB` (45_link_rx.md R206,
R210; 46_link_tx.md R247). Elsewhere it is dropped (40_pulse_decoder.md R126). -/
def consumeReset (s : State) : State :=
  if listening s then
    match s.linkState with
    | .awaitingSync => syncLink s
    | .resetDetected => s
    | .gatheringPacket => raise .prematureReset s
  else if readingBack s then raise .readBackAbort s
  else s

/-- A falling edge: it ends `RD` and does nothing else (40_pulse_decoder.md R124, 45_link_rx.md R207). -/
def consumeFalling (s : State) : State :=
  if listening s ∧ s.linkState = .resetDetected then startGathering s else s

/-! ## The surrounding software's chunker -/

/-- The fragment, its tag and the session after it (49_text_chunker_boundary.md R308). -/
def nextChunk (cfg : Config) (t : TextSession) : ChunkTag × List Byte × TextSession :=
  let rest := t.text.drop t.cursor
  let chunk := rest.take cfg.chunkLen ++ List.replicate (cfg.chunkLen - rest.length) cfg.textEndMark
  if rest.length ≤ cfg.chunkLen then (.finish, chunk, { t with cursor := 0, active := false })
  else (.append, chunk, { t with cursor := t.cursor + cfg.chunkLen })

/-- The byte of a tag: two different bytes, otherwise free (48_command_vocabulary.md R297,
91_not_in_source.md N5; log entry 14). -/
def chunkTagByte : ChunkTag → Byte
  | .append => Config.appendTag
  | .finish => Config.appendTag + BitVec.ofNat 8 (Config.endTagGap.val + 1)

/-- Items in a free order: each is put in at its place among those after it. Every order is that of some
`place`. -/
def arrange (place : Nat → Nat) : List Byte → List Byte
  | [] => []
  | b :: rest =>
    (arrange place rest).take (place rest.length % (rest.length + 1)) ++
      b :: (arrange place rest).drop (place rest.length % (rest.length + 1))

/-- What a text packet carries beside its id: the text bytes of the fragment, its tag, and perhaps the
byte that 91_not_in_source.md N5 leaves unaccounted for (48_command_vocabulary.md R297; log entry 14). -/
def textItems (t : TextSession) (tag : ChunkTag) (chunk : List Byte) : List Byte :=
  chunk ++ chunkTagByte tag ::
    (if Config.textHasTenthByte then [Config.textSpareByte t.text t.cursor] else [])

/-- The payload of a text packet: id 0xC8 and its items at free positions
(48_command_vocabulary.md R297, 91_not_in_source.md N5; log entry 14). -/
def textPayload (t : TextSession) (tag : ChunkTag) (chunk : List Byte) : List Byte :=
  0xC8#8 :: arrange (Config.textPlace tag) (textItems t tag chunk)

/-- Hand a fragment to SEND, which uses up the opportunity. A refused SEND leaves the session as it is,
and the flag it returns is free (49_text_chunker_boundary.md R307, R308 corner case 4,
92_eei_decisions.md D31; log entries 22 and 23). -/
def sendChunk (c : ChunkTag × List Byte × TextSession) (s : State) : State :=
  let payload := textPayload s.text c.1 c.2.1
  if sendAccepted payload.length s then
    { enqueue payload.length payload s with
      text := c.2.2, textReady := false, ephem := .chunkDone (decide (c.1 = .finish)) }
  else
    { enqueue payload.length payload s with
      textReady := false,
      ephem := .chunkDone (Config.refusedChunkDone s.text.text s.text.cursor) }

/-- The chunker is invoked: in the host of a transmit-role instance, while a session is open, once for
each opportunity (49_text_chunker_boundary.md R305 to R307, R310). -/
abbrev chunkerInvoked (s : State) : Prop :=
  s.pins.role = .tx ∧ s.text.active = true ∧ s.textReady = true

/-- The string a session gets: the text, or, where it is longer than `MAX_TEXT_LEN`, a free string of at
most that length (49_text_chunker_boundary.md R306; log entry 15). -/
def keptText (t : List Byte) : List Byte :=
  if Config.maxTextLen < t.length then (Config.overlongText t).take Config.maxTextLen else t

/-- A new text for the chunker, which lives with a transmit-role instance: a session is created in place
of the old one (49_text_chunker_boundary.md R305, R306), but not for the empty string (R308 corner
case 3), which leaves an old session as it is (DESIGN CHOICE, log entry 24). -/
def setText (t : List Byte) (s : State) : State :=
  if s.pins.role = .tx ∧ keptText t ≠ [] then { s with text := ⟨keptText t, 0, true⟩ } else s

end Sys2Proof.Machine
end

