-- ==== Sys2Proof/Machine/ArbitrationHeader.lean ====
section
/-! DEFINITION. Meanings of the formats `HFLAG` and `RFLAG` and of HDR.DECODE and HDR.ENCODE (44_arbitration_header.md
R185 to R198). A flag is set and cleared by its owner's host with SETF and CLRF, seen by the block of the
other party, and taken by that party's host with TAKE (log entry 13). -/

namespace Sys2Proof.Machine

open Sys2Proof

/-- The owner's host sets the flag with SETF; a party that does not own it sets nothing
(44_arbitration_header.md R195). -/
def setFlagOf (owner : Role) (mask : Byte) (s : State) : State :=
  setFlags (if s.pins.role = owner then mask else 0x00#8) s

/-- The owner's host clears the flag with CLRF (47_host_commands.md R270). -/
def clearFlagOf (owner : Role) (mask : Byte) (s : State) : State :=
  clearFlags (if s.pins.role = owner then mask else 0x00#8) s

/-- The other party's host takes the flag with TAKE (44_arbitration_header.md R196). In the owner's own
instance `peer_flags` has the other vocabulary, and nothing is taken. -/
def takeFlagOf (owner : Role) (k : Nat) (s : State) : State :=
  if s.pins.role = owner then respond true false s else takeBit k s

/-- A bit of an accepted packet's flag byte is shown in `peer_flags` (41_packet_assembler.md R144,
44_arbitration_header.md R187). -/
def showHostFlag (k : Nat) (s : State) : State :=
  { s with peerFlags := setBitTo s.peerFlags k (bitOf (byteAt s.pkt 1) k) }

/-- A bit of the overlay vector is folded into `peer_flags` (46_link_tx.md R238). -/
def foldFlag (k : Nat) (s : State) : State :=
  { s with peerFlags := setBitTo s.peerFlags k (bitOf (foldFlags s.cfg s.peerFlags s.rbVec) k) }

/-- `HOST_READY`, bit 7 of the host-emulation byte: seen at packet completion it is the gate in front of
the parity check and the delivery (44_arbitration_header.md R186). -/
def execHostReady (form : FlagForm) (s : State) : Outcome :=
  match form with
  | .set => .next (setFlagOf .tx 0x80#8 s)
  | .clear => .next (clearFlagOf .tx 0x80#8 s)
  | .seen => .next (if packetGathered s then finishPacket s else s)
  | .take => .next (takeFlagOf .tx 7 s)

/-- `DATA_AVAIL`, bit 0 of the host-emulation byte, inverted; read by no rule and shown in `peer_flags`
(44_arbitration_header.md R187). -/
def execDataAvail (form : FlagForm) (s : State) : Outcome :=
  match form with
  | .set => .next (setFlagOf .tx 0x01#8 s)
  | .clear => .next (clearFlagOf .tx 0x01#8 s)
  | .seen => .next (if packetAccepted s then showHostFlag 0 s else s)
  | .take => .next (takeFlagOf .tx 0 s)

/-- `BUS_AVAIL`, bit 4 of the host-emulation byte: seen in an accepted packet it permits the reply burst
(44_arbitration_header.md R188). -/
def execBusAvail (form : FlagForm) (s : State) : Outcome :=
  match form with
  | .set => .next (setFlagOf .tx 0x10#8 s)
  | .clear => .next (clearFlagOf .tx 0x10#8 s)
  | .seen => .next (if packetAccepted s then replyIfGranted (showHostFlag 4 s) else s)
  | .take => .next (takeFlagOf .tx 4 s)

/-- `ERROR`, bit 6 of the host-emulation byte; read by no rule and shown in `peer_flags`
(44_arbitration_header.md R189). -/
def execErrorHost (form : FlagForm) (s : State) : Outcome :=
  match form with
  | .set => .next (setFlagOf .tx 0x40#8 s)
  | .clear => .next (clearFlagOf .tx 0x40#8 s)
  | .seen => .next (if packetAccepted s then showHostFlag 6 s else s)
  | .take => .next (takeFlagOf .tx 6 s)

/-- `TX_READY`, bit 4 of the remote-emulation byte: seen in the overlay vector when byte 0 ends it makes
the cycle end with a read-back (44_arbitration_header.md R190). -/
def execTxReady (form : FlagForm) (s : State) : Outcome :=
  match form with
  | .set => .next (setFlagOf .rx 0x10#8 s)
  | .clear => .next (clearFlagOf .rx 0x10#8 s)
  | .seen =>
    .next (if slotEnded 1 s then { foldFlag 4 s with txrSeen := bitOf s.rbVec 4 } else s)
  | .take => .next (takeFlagOf .rx 4 s)

/-- `READY_FOR_TEXT`, bit 1 of the remote-emulation byte, one-shot: it stays in `peer_flags` until taken
(44_arbitration_header.md R191). -/
def execReadyForText (form : FlagForm) (s : State) : Outcome :=
  match form with
  | .set => .next (setFlagOf .rx 0x02#8 s)
  | .clear => .next (clearFlagOf .rx 0x02#8 s)
  | .seen => .next (if slotEnded 1 s then foldFlag 1 s else s)
  | .take => .next (takeFlagOf .rx 1 s)

/-- `TIMER_REQUEST`, bit 2 of the remote-emulation byte, one-shot (44_arbitration_header.md R192). -/
def execTimerRequest (form : FlagForm) (s : State) : Outcome :=
  match form with
  | .set => .next (setFlagOf .rx 0x04#8 s)
  | .clear => .next (clearFlagOf .rx 0x04#8 s)
  | .seen => .next (if slotEnded 1 s then foldFlag 2 s else s)
  | .take => .next (takeFlagOf .rx 2 s)

/-- `ERROR`, bit 6 of the remote-emulation byte, follows the latest overlay vector
(44_arbitration_header.md R193). -/
def execErrorRemote (form : FlagForm) (s : State) : Outcome :=
  match form with
  | .set => .next (setFlagOf .rx 0x40#8 s)
  | .clear => .next (clearFlagOf .rx 0x40#8 s)
  | .seen => .next (if slotEnded 1 s then foldFlag 6 s else s)
  | .take => .next (takeFlagOf .rx 6 s)

/-- `IS_INIT`, bit 7 of the remote-emulation byte, follows the latest overlay vector and gates nothing
(44_arbitration_header.md R194). -/
def execIsInit (form : FlagForm) (s : State) : Outcome :=
  match form with
  | .set => .next (setFlagOf .rx 0x80#8 s)
  | .clear => .next (clearFlagOf .rx 0x80#8 s)
  | .seen => .next (if slotEnded 1 s then foldFlag 7 s else s)
  | .take => .next (takeFlagOf .rx 7 s)

/-- The decoded view of a flag byte under the vocabulary that the role selects
(44_arbitration_header.md R185): the overlay vector is a flag byte in the transmit role only, byte 1 of a
packet in the receive role only. -/
def headerView (src : HdrSource) (s : State) : Ephemeral :=
  match s.pins.role, src with
  | .tx, .ownFlags => .hostHeader (hostFlags s.outFlags)
  | .tx, .peerFlags => .remoteHeader (remoteFlags s.peerFlags)
  | .tx, .overlayVector => .remoteHeader (remoteFlags s.rbVec)
  | .tx, .packetByte => .empty
  | .rx, .ownFlags => .remoteHeader (remoteFlags s.outFlags)
  | .rx, .peerFlags => .hostHeader (hostFlags s.peerFlags)
  | .rx, .packetByte => .hostHeader (hostFlags (byteAt s.pkt 1))
  | .rx, .overlayVector => .empty

/-- `HDR.DECODE`: the record of a flag byte's named bits, handed on (44_arbitration_header.md R197). -/
def execHdrDecode (src : HdrSource) (s : State) : Outcome := .next { s with ephem := headerView src s }

/-- `HDR.ENCODE`: the published byte is `out_flags` as it stands, handed on
(44_arbitration_header.md R198). -/
def execHdrEncode (s : State) : Outcome := .next { s with ephem := .byte s.outFlags }

end Sys2Proof.Machine
end

