-- ==== Sys2Proof/Machine/CommandVocabulary.lean ====
section
/-! DEFINITION. Meanings of the sixteen command ids (48_command_vocabulary.md R284 to R300). The block carries an id and its
nine data bytes unchanged and never looks at them (log entry 12). -/

namespace Sys2Proof.Machine

open Sys2Proof

/-- The legs of a payload (48_command_vocabulary.md R284): enqueue, SEND of all ten bytes; send, the
dequeue of a queue that holds exactly this payload, where the transmit role dequeues (46_link_tx.md
R240) or the receive role starts its reply (45_link_rx.md R216); deliver, the completion of a frame that
holds exactly this payload (41_packet_assembler.md R144, 46_link_tx.md R246). The id selects nothing. -/
def carryPayload (leg : Leg) (payload : List Byte) (s : State) : State :=
  match leg with
  | .enqueue => enqueue 10 payload s
  | .send =>
    if 0 < s.qLen ∧ (queuedPayload s).toList = payload then
      if slotEnded 2 s then dequeue s
      else if packetAccepted s ∧ replyGranted s then startReply s
      else s
    else s
  | .deliver =>
    if packetGathered s ∧ packetPayload s = payload then finishPacket s
    else if (readingBack s ∧ s.byteIdx = s.cfg.burstLen) ∧ burstPayload s = payload then finishBurst s
    else s

/-- `0x01` "capabilities" (48_command_vocabulary.md R285). -/
def execCmdCapabilities (leg : Leg) (data : List Byte) (s : State) : Outcome :=
  .next (carryPayload leg (0x01#8 :: data) s)

/-- `0x03` "display-mode" (48_command_vocabulary.md R286). -/
def execCmdDisplayMode (leg : Leg) (data : List Byte) (s : State) : Outcome :=
  .next (carryPayload leg (0x03#8 :: data) s)

/-- `0x05` "backlight" (48_command_vocabulary.md R287). -/
def execCmdBacklight (leg : Leg) (data : List Byte) (s : State) : Outcome :=
  .next (carryPayload leg (0x05#8 :: data) s)

/-- `0x40` "volume" (48_command_vocabulary.md R288). -/
def execCmdVolume (leg : Leg) (data : List Byte) (s : State) : Outcome :=
  .next (carryPayload leg (0x40#8 :: data) s)

/-- `0x41` "play-mode" (48_command_vocabulary.md R289). -/
def execCmdPlayMode (leg : Leg) (data : List Byte) (s : State) : Outcome :=
  .next (carryPayload leg (0x41#8 :: data) s)

/-- `0x42` "rec-mode" (48_command_vocabulary.md R290). -/
def execCmdRecMode (leg : Leg) (data : List Byte) (s : State) : Outcome :=
  .next (carryPayload leg (0x42#8 :: data) s)

/-- `0x43` "battery" (48_command_vocabulary.md R291). -/
def execCmdBattery (leg : Leg) (data : List Byte) (s : State) : Outcome :=
  .next (carryPayload leg (0x43#8 :: data) s)

/-- `0x46` "eq" (48_command_vocabulary.md R292). -/
def execCmdEq (leg : Leg) (data : List Byte) (s : State) : Outcome :=
  .next (carryPayload leg (0x46#8 :: data) s)

/-- `0x47` "alarm" (48_command_vocabulary.md R293). -/
def execCmdAlarm (leg : Leg) (data : List Byte) (s : State) : Outcome :=
  .next (carryPayload leg (0x47#8 :: data) s)

/-- `0xA0` "track" (48_command_vocabulary.md R294). -/
def execCmdTrack (leg : Leg) (data : List Byte) (s : State) : Outcome :=
  .next (carryPayload leg (0xA0#8 :: data) s)

/-- `0xA1` "play-state" (48_command_vocabulary.md R295). -/
def execCmdPlayState (leg : Leg) (data : List Byte) (s : State) : Outcome :=
  .next (carryPayload leg (0xA1#8 :: data) s)

/-- `0xA2` "display" (48_command_vocabulary.md R296). -/
def execCmdDisplay (leg : Leg) (data : List Byte) (s : State) : Outcome :=
  .next (carryPayload leg (0xA2#8 :: data) s)

/-- `0xC8` "text" (48_command_vocabulary.md R297). -/
def execCmdText (leg : Leg) (data : List Byte) (s : State) : Outcome :=
  .next (carryPayload leg (0xC8#8 :: data) s)

/-- `0x18` "request write address" (48_command_vocabulary.md R298). -/
def execCmdRequestWriteAddress (leg : Leg) (data : List Byte) (s : State) : Outcome :=
  .next (carryPayload leg (0x18#8 :: data) s)

/-- `0xD8` "track count" (48_command_vocabulary.md R299). -/
def execCmdTrackCount (leg : Leg) (data : List Byte) (s : State) : Outcome :=
  .next (carryPayload leg (0xD8#8 :: data) s)

/-- `0xD9` "set track" (48_command_vocabulary.md R300). -/
def execCmdSetTrack (leg : Leg) (data : List Byte) (s : State) : Outcome :=
  .next (carryPayload leg (0xD9#8 :: data) s)

end Sys2Proof.Machine
end

