-- ==== Sys2Proof/Machine/Frames.lean ====
section
/-! DEFINITION. Meanings of the formats `BYTE`, `PACKET`, `BURST` (43_pulse_encoder.md R170 to R172 as sent; 41_packet_assembler.md R141, R144 and 46_link_tx.md R246 as received). -/

namespace Sys2Proof.Machine

open Sys2Proof

/-- `BYTE`. Sent: `wave_byte(v, m)` (43_pulse_encoder.md R170). Received: its eight bits, bit 0 first
(41_packet_assembler.md R141). -/
def execByte (form : ByteForm) (s : State) : Outcome :=
  match form with
  | .sent v m => .next (play (waveByte s.cfg v m) s)
  | .received v => .next (assembleByte v s)

/-- `PACKET`. Sent: `wave_packet(a, f, p, m)` (43_pulse_encoder.md R171). Received: completion of the
thirteen bytes in `pkt` (41_packet_assembler.md R144). -/
def execPacket (form : PacketForm) (s : State) : Outcome :=
  match form with
  | .sent a f p m => .next (play (wavePacket s.cfg a f p m) s)
  | .received => .next (if packetGathered s then finishPacket s else s)

/-- `BURST`. Sent: `wave_burst(p)` (43_pulse_encoder.md R172). Received: completion of the eleven bytes
in `pkt` (46_link_tx.md R246). -/
def execBurst (form : BurstForm) (s : State) : Outcome :=
  match form with
  | .sent p => .next (play (waveBurst s.cfg p) s)
  | .received =>
    .next (if readingBack s ∧ s.byteIdx = s.cfg.burstLen then finishBurst s else s)

end Sys2Proof.Machine
end

