-- ==== Sys2Proof/Machine/HostCommands.lean ====
section
/-! DEFINITION. Meanings of the host-port commands (47_host_commands.md R265 to R273). -/

namespace Sys2Proof.Machine

open Sys2Proof

/-- `HNOP` (47_host_commands.md R266). -/
def execHnop (s : State) : Outcome := .next (respond true false s)

/-- `SEND` (47_host_commands.md R267). -/
def execSend (len : Nat) (data : List Byte) (s : State) : Outcome := .next (enqueue len data s)

/-- `TAKE` (47_host_commands.md R268). -/
def execTake (arg : Byte) (s : State) : Outcome := .next (takeBit (takeIndex arg) s)

/-- `SETF` (47_host_commands.md R269). -/
def execSetf (arg : Byte) (s : State) : Outcome := .next (setFlags arg s)

/-- `CLRF` (47_host_commands.md R270). -/
def execClrf (arg : Byte) (s : State) : Outcome := .next (clearFlags arg s)

/-- `WRA` (47_host_commands.md R271). -/
def execWra (arg : Byte) (s : State) : Outcome := .next (respond true false { s with hdrA := arg })

/-- `CLRD` (47_host_commands.md R272). -/
def execClrd (arg : Byte) (s : State) : Outcome := .next (clearDiag arg s)

/-- The reserved code 7: refused on the port, `cmd_ok` = 0, nothing else changes (47_host_commands.md
R273, 93_implementation_defined.md U2). -/
def execHostopReserved7 (s : State) : Outcome := .next (respond false false s)

end Sys2Proof.Machine
end

