-- ==== Sys2Proof/Machine/LinkRx.lean ====
section
/-! DEFINITION. Meanings of the receive role's events (45_link_rx.md R206 to R218). An event outside its trigger leaves the
state unchanged (R219; log entry 10). -/

namespace Sys2Proof.Machine

open Sys2Proof

/-- `RX.SYNC` (45_link_rx.md R206). -/
def execRxSync (s : State) : Outcome :=
  .next (if listening s ∧ s.linkState = .awaitingSync then syncLink s else s)

/-- `RX.START` (45_link_rx.md R207). -/
def execRxStart (s : State) : Outcome :=
  .next (if listening s ∧ s.linkState = .resetDetected then startGathering s else s)

/-- `RX.BIT` (45_link_rx.md R208). -/
def execRxBit (b : Bool) (s : State) : Outcome :=
  .next (if listening s ∧ s.linkState = .gatheringPacket then assembleBit b s else s)

/-- `RX.DONE` (45_link_rx.md R209). -/
def execRxDone (s : State) : Outcome :=
  .next (if (listening s ∧ s.linkState = .gatheringPacket) ∧ s.byteIdx = s.cfg.pktLen
    then finishPacket s else s)

/-- `RX.RESYNC` (45_link_rx.md R210). -/
def execRxResync (s : State) : Outcome :=
  .next (if listening s ∧ s.linkState = .gatheringPacket then raise .prematureReset s else s)

/-- `RX.TIMEOUT` (45_link_rx.md R211). -/
def execRxTimeout (s : State) : Outcome :=
  .next (if (listening s ∧ s.linkState ≠ .awaitingSync) ∧ timedOut s then raise .starvation s else s)

/-- `RX.INJECT`: armed only while bit 0 of byte 0 is open (45_link_rx.md R213); its ticks run while no
burst of the block's own plays (R214, R215, R218). -/
def execRxInject (form : InjectForm) (s : State) : Outcome :=
  match form with
  | .arm =>
    .next (if (listening s ∧ s.linkState = .gatheringPacket) ∧ s.byteIdx = 0 ∧ s.bitIdx = 0
      then armInject s else s)
  | .tick line => .next (if listening s then injectTick line s else s)

/-- `RX.REPLY`: its start, when a packet has just passed the gate and the parity check
(45_link_rx.md R216), and its end (R217). -/
def execRxReply (form : ReplyForm) (s : State) : Outcome :=
  match form with
  | .start => .next (if packetAccepted s then replyIfGranted s else s)
  | .finish =>
    .next (if s.pins.role = .rx ∧ s.txState = .play ∧ s.segs = [] then endReply s else s)

end Sys2Proof.Machine
end

