-- ==== Sys2Proof/Machine/LinkTx.lean ====
section
/-! DEFINITION. Meanings of the transmit role's events (46_link_tx.md R232 to R248). An event outside its trigger leaves the
state unchanged (log entry 10). -/

namespace Sys2Proof.Machine

open Sys2Proof

/-- The transmit role is idle (46_link_tx.md R232). -/
abbrev txIdle (s : State) : Prop := s.pins.role = .tx ∧ s.txState = .idle

/-- `TX.START` (46_link_tx.md R232). -/
def execTxStart (s : State) : Outcome := .next (if txIdle s then startCycle s else s)

/-- `TX.PREAMBLE` (46_link_tx.md R235). -/
def execTxPreamble (s : State) : Outcome :=
  .next (if txIdle s ∧ cycleDue s then playPreamble s else s)

/-- `TX.HDRA` (46_link_tx.md R236). -/
def execTxHdra (s : State) : Outcome := .next (if slotEnded 0 s then playHeader s else s)

/-- `TX.OVERLAY`: the sample of the overlay cell now playing (46_link_tx.md R237). -/
def execTxOverlay (line : Level) (s : State) : Outcome :=
  .next (if s.txState = .play then sampleOverlay line s else s)

/-- `TX.FOLD` (46_link_tx.md R238). -/
def execTxFold (s : State) : Outcome := .next (if slotEnded 1 s then foldOverlay s else s)

/-- `TX.FLAGS` (46_link_tx.md R239). -/
def execTxFlags (s : State) : Outcome := .next (if slotEnded 1 s then playFlags s else s)

/-- `TX.DEQUEUE` (46_link_tx.md R240). -/
def execTxDequeue (s : State) : Outcome := .next (if slotEnded 2 s then dequeue s else s)

/-- `TX.PAYLOAD` (46_link_tx.md R241): slots 3 to 12, when slot 2 to 11 has ended. -/
def execTxPayload (s : State) : Outcome :=
  .next (if slotEnded s.txSlot s ∧ 2 ≤ s.txSlot ∧ s.txSlot ≤ 11 then playPayload s else s)

/-- `TX.PARITY` (46_link_tx.md R241). -/
def execTxParity (s : State) : Outcome := .next (if slotEnded 12 s then playParity s else s)

/-- `TX.END` (46_link_tx.md R242). -/
def execTxEnd (s : State) : Outcome :=
  .next (if slotEnded 13 s ∧ s.txrSeen = false then endCycle s else s)

/-- `RB.ENTER` (46_link_tx.md R243). -/
def execRbEnter (s : State) : Outcome :=
  .next (if slotEnded 13 s ∧ s.txrSeen = true then enterReadBack s else s)

/-- `RB.BIT` (46_link_tx.md R244). -/
def execRbBit (b : Bool) (s : State) : Outcome :=
  .next (if readingBack s then assembleBit b s else s)

/-- `RB.DONE` (46_link_tx.md R246). -/
def execRbDone (s : State) : Outcome :=
  .next (if readingBack s ∧ s.byteIdx = s.cfg.burstLen then finishBurst s else s)

/-- `RB.ABORT` (46_link_tx.md R247). -/
def execRbAbort (s : State) : Outcome :=
  .next (if readingBack s then raise .readBackAbort s else s)

/-- `RB.TIMEOUT` (46_link_tx.md R248). -/
def execRbTimeout (s : State) : Outcome :=
  .next (if readingBack s ∧ timedOut s then raise .starvation s else s)

end Sys2Proof.Machine
end

