-- ==== Sys2Proof/Machine/PacketAssembler.lean ====
section
/-! DEFINITION. Meanings of ASM.* and PAR.* (41_packet_assembler.md R140 to R143, 42_parity.md R155 to R157). -/

namespace Sys2Proof.Machine

open Sys2Proof

/-- `ASM.START` (41_packet_assembler.md R140). -/
def execAsmStart (s : State) : Outcome := .next (startFrame s)

/-- `ASM.BIT b` (41_packet_assembler.md R141). -/
def execAsmBit (b : Bool) (s : State) : Outcome := .next (assembleBit b s)

/-- `ASM.ABANDON` (41_packet_assembler.md R142). -/
def execAsmAbandon (s : State) : Outcome := .next (abandonFrame s)

/-- `ASM.COMPLETE` (41_packet_assembler.md R143). -/
def execAsmComplete (s : State) : Outcome := .next (completeIfFull s)

/-- `PAR.FOLD`: the fold of a list of bytes, handed on (42_parity.md R155). -/
def execParFold (bytes : List Byte) (s : State) : Outcome :=
  .next { s with ephem := .byte (xorFold bytes) }

/-- `PAR.CHECK`: whether the trailer is the fold of the payload, handed on; the caller marks `diag`
(42_parity.md R156). -/
def execParCheck (form : ParityForm) (s : State) : Outcome :=
  match form with
  | .packet => .next { s with ephem := .verdict (packetParityOk s) }
  | .burst => .next { s with ephem := .verdict (burstParityOk s) }

/-- `PAR.APPEND`: the byte sent after the payload, handed on (42_parity.md R157). -/
def execParAppend (s : State) : Outcome := .next { s with ephem := .byte (xorFold s.txbuf.toList) }

end Sys2Proof.Machine
end

