-- ==== Sys2Proof/Machine/PulseDecoder.lean ====
section
/-! DEFINITION. Meanings of format `PULSE`, of CLK.STEP and of FALLING (40_pulse_decoder.md). -/

namespace Sys2Proof.Machine

open Sys2Proof

/-- `RESET`. Decoded: a LOW time inside the window is a link reset and goes to its consumer, any other
is not this symbol (40_pulse_decoder.md R121, R126). Transmitted: the reset waveform
(43_pulse_encoder.md R169). It has no overlay form. -/
def execReset (form : PulseForm) (s : State) : Outcome :=
  match form with
  | .decoded d => .next (if classify s.cfg d = .reset then consumeReset s else s)
  | .transmitted => .next (play (waveReset s.cfg) s)
  | .overlay _ => .next s

/-- `ONE`. Decoded: a LOW time below the threshold and outside the reset window is the bit 1
(40_pulse_decoder.md R122, R126). Transmitted: `cell(1)` (43_pulse_encoder.md R166). It has no overlay
form: a cell whose bit is 1 is never an overlay cell (R170). -/
def execOne (form : PulseForm) (s : State) : Outcome :=
  match form with
  | .decoded d => .next (if classify s.cfg d = .one then consumeBit true s else s)
  | .transmitted => .next (play (cellOne s.cfg) s)
  | .overlay _ => .next s

/-- `ZERO`. Decoded: any other LOW time is the bit 0 (40_pulse_decoder.md R123, R126). Transmitted:
`cell(0)` (43_pulse_encoder.md R167), or `ovl(i)` as overlay cell i (R168). -/
def execZero (form : PulseForm) (s : State) : Outcome :=
  match form with
  | .decoded d => .next (if classify s.cfg d = .zero then consumeBit false s else s)
  | .transmitted => .next (play (cellZero s.cfg) s)
  | .overlay i => .next (play (cellOverlay s.cfg i) s)

/-- `CLK.STEP` (40_pulse_decoder.md R120). -/
def execClkStep (line : Level) (s : State) : Outcome := .next (clockStep line s)

/-- `FALLING`: a timing reference; the HIGH time before it is ignored (40_pulse_decoder.md R124). -/
def execFalling (_d : Nat) (s : State) : Outcome := .next (consumeFalling s)

end Sys2Proof.Machine
end

