-- ==== Sys2Proof/Machine/PulseEncoder.lean ====
section
/-! DEFINITION. Meaning of PLAYER.STEP (43_pulse_encoder.md R175). -/

namespace Sys2Proof.Machine

open Sys2Proof

/-- `PLAYER.STEP` (43_pulse_encoder.md R175). -/
def execPlayerStep (line : Level) (s : State) : Outcome := .next (playTick line s)

end Sys2Proof.Machine
end

