-- ==== Sys2Proof/Machine/TextChunker.lean ====
section
/-! DEFINITION. Meaning of CHUNK.NEXT, the surrounding software's one operation of the table
(49_text_chunker_boundary.md R305 to R310; log entries 14, 22 and 23). -/

namespace Sys2Proof.Machine

open Sys2Proof

/-- `CHUNK.NEXT`, one opportunity: build the next fragment and SEND it. In the receive role, without an
open session, or without an opportunity that a `TAKE 1` has answered, the chunker is not invoked
(49_text_chunker_boundary.md R305 to R308, R310). -/
def execChunkNext (s : State) : Outcome :=
  .next (if chunkerInvoked s then sendChunk (nextChunk s.cfg s.text) s else s)

end Sys2Proof.Machine
end

