-- ==== Sys2Proof/Machine/Dispatch.lean ====
section
/-! DEFINITION. The dispatch: one arm per operation of the table, each one direct call of its meaning. -/

namespace Sys2Proof.Machine

open Sys2Proof

def exec (i : Instr) (s : State) : Host.Outcome State Fault Refusal :=
  match i with
  | .reset form => Sys2Proof.Machine.execReset form s
  | .one form => Sys2Proof.Machine.execOne form s
  | .zero form => Sys2Proof.Machine.execZero form s
  | .byte form => Sys2Proof.Machine.execByte form s
  | .packet form => Sys2Proof.Machine.execPacket form s
  | .burst form => Sys2Proof.Machine.execBurst form s
  | .hostReady form => Sys2Proof.Machine.execHostReady form s
  | .dataAvail form => Sys2Proof.Machine.execDataAvail form s
  | .busAvail form => Sys2Proof.Machine.execBusAvail form s
  | .errorHost form => Sys2Proof.Machine.execErrorHost form s
  | .txReady form => Sys2Proof.Machine.execTxReady form s
  | .readyForText form => Sys2Proof.Machine.execReadyForText form s
  | .timerRequest form => Sys2Proof.Machine.execTimerRequest form s
  | .errorRemote form => Sys2Proof.Machine.execErrorRemote form s
  | .isInit form => Sys2Proof.Machine.execIsInit form s
  | .cmdCapabilities leg data => Sys2Proof.Machine.execCmdCapabilities leg data s
  | .cmdDisplayMode leg data => Sys2Proof.Machine.execCmdDisplayMode leg data s
  | .cmdBacklight leg data => Sys2Proof.Machine.execCmdBacklight leg data s
  | .cmdVolume leg data => Sys2Proof.Machine.execCmdVolume leg data s
  | .cmdPlayMode leg data => Sys2Proof.Machine.execCmdPlayMode leg data s
  | .cmdRecMode leg data => Sys2Proof.Machine.execCmdRecMode leg data s
  | .cmdBattery leg data => Sys2Proof.Machine.execCmdBattery leg data s
  | .cmdEq leg data => Sys2Proof.Machine.execCmdEq leg data s
  | .cmdAlarm leg data => Sys2Proof.Machine.execCmdAlarm leg data s
  | .cmdTrack leg data => Sys2Proof.Machine.execCmdTrack leg data s
  | .cmdPlayState leg data => Sys2Proof.Machine.execCmdPlayState leg data s
  | .cmdDisplay leg data => Sys2Proof.Machine.execCmdDisplay leg data s
  | .cmdText leg data => Sys2Proof.Machine.execCmdText leg data s
  | .cmdRequestWriteAddress leg data => Sys2Proof.Machine.execCmdRequestWriteAddress leg data s
  | .cmdTrackCount leg data => Sys2Proof.Machine.execCmdTrackCount leg data s
  | .cmdSetTrack leg data => Sys2Proof.Machine.execCmdSetTrack leg data s
  | .hnop => Sys2Proof.Machine.execHnop s
  | .send len data => Sys2Proof.Machine.execSend len data s
  | .take arg => Sys2Proof.Machine.execTake arg s
  | .setf arg => Sys2Proof.Machine.execSetf arg s
  | .clrf arg => Sys2Proof.Machine.execClrf arg s
  | .wra arg => Sys2Proof.Machine.execWra arg s
  | .clrd arg => Sys2Proof.Machine.execClrd arg s
  | .hostopReserved7 => Sys2Proof.Machine.execHostopReserved7 s
  | .clkStep line => Sys2Proof.Machine.execClkStep line s
  | .falling d => Sys2Proof.Machine.execFalling d s
  | .asmStart => Sys2Proof.Machine.execAsmStart s
  | .asmBit b => Sys2Proof.Machine.execAsmBit b s
  | .asmAbandon => Sys2Proof.Machine.execAsmAbandon s
  | .asmComplete => Sys2Proof.Machine.execAsmComplete s
  | .parFold bytes => Sys2Proof.Machine.execParFold bytes s
  | .parCheck form => Sys2Proof.Machine.execParCheck form s
  | .parAppend => Sys2Proof.Machine.execParAppend s
  | .playerStep line => Sys2Proof.Machine.execPlayerStep line s
  | .hdrDecode src => Sys2Proof.Machine.execHdrDecode src s
  | .hdrEncode => Sys2Proof.Machine.execHdrEncode s
  | .rxSync => Sys2Proof.Machine.execRxSync s
  | .rxStart => Sys2Proof.Machine.execRxStart s
  | .rxBit b => Sys2Proof.Machine.execRxBit b s
  | .rxDone => Sys2Proof.Machine.execRxDone s
  | .rxResync => Sys2Proof.Machine.execRxResync s
  | .rxTimeout => Sys2Proof.Machine.execRxTimeout s
  | .rxInject form => Sys2Proof.Machine.execRxInject form s
  | .rxReply form => Sys2Proof.Machine.execRxReply form s
  | .txStart => Sys2Proof.Machine.execTxStart s
  | .txPreamble => Sys2Proof.Machine.execTxPreamble s
  | .txHdra => Sys2Proof.Machine.execTxHdra s
  | .txOverlay line => Sys2Proof.Machine.execTxOverlay line s
  | .txFold => Sys2Proof.Machine.execTxFold s
  | .txFlags => Sys2Proof.Machine.execTxFlags s
  | .txDequeue => Sys2Proof.Machine.execTxDequeue s
  | .txPayload => Sys2Proof.Machine.execTxPayload s
  | .txParity => Sys2Proof.Machine.execTxParity s
  | .txEnd => Sys2Proof.Machine.execTxEnd s
  | .rbEnter => Sys2Proof.Machine.execRbEnter s
  | .rbBit b => Sys2Proof.Machine.execRbBit b s
  | .rbDone => Sys2Proof.Machine.execRbDone s
  | .rbAbort => Sys2Proof.Machine.execRbAbort s
  | .rbTimeout => Sys2Proof.Machine.execRbTimeout s
  | .chunkNext => Sys2Proof.Machine.execChunkNext s

end Sys2Proof.Machine
end

