-- ==== Sys2Proof/Machine/Outputs.lean ====
section
/-! DEFINITION. The outputs of an instance, functions of the state and of nothing else (10_state.md R20,
R43), and the bench net that resolves the line (20_memory.md R73, R74). -/

namespace Sys2Proof.Machine

open Sys2Proof

/-- What the block does to the line (10_state.md R43): the inject first, then the head segment while the
player runs, else released. -/
def lineDrive (s : State) : Drive :=
  if s.injState = .drive then .high
  else if s.txState = .play then
    match s.segs with
    | g :: _ => g.lineDrive
    | [] => .released
  else .released

/-- `line_oe` (10_state.md R43). -/
def lineOe (s : State) : Bool := decide (lineDrive s ≠ .released)

/-- `line_out` (10_state.md R43): HIGH, and without meaning, while the line is released. -/
def lineOut (s : State) : Level :=
  match lineDrive s with
  | .low => .low
  | .high => .high
  | .released => .high

/-- The bench net at a tick: the driven level, the last level if nobody drives, and no value if one party
drives HIGH and another LOW (20_memory.md R73, R74). -/
def benchNet (drives : List Drive) (prev : Level) : Option Level :=
  if .high ∈ drives then (if .low ∈ drives then none else some .high)
  else if .low ∈ drives then some .low
  else some prev

/-- The code of `link_state` on its output (10_state.md R25). -/
def linkCode : LinkState → BitVec 2
  | .awaitingSync => 0
  | .resetDetected => 1
  | .gatheringPacket => 2

/-- The code of `tx_state` on its output (10_state.md R36). -/
def txCode : TxState → BitVec 2
  | .idle => 0
  | .play => 1
  | .readBack => 2

/-- The pins and the visible state elements, by which a run is observed (10_state.md R20 to R39, which
mark each; 00_scope.md R17; log entry 20). -/
structure Outputs where
  lineOe : Bool
  lineOut : Level
  tEdge : Nat
  linkState : BitVec 2
  bitIdx : Nat
  byteIdx : Nat
  pkt : Vector Byte 13
  curByte : Byte
  qBuf : Vector Byte 10
  qLen : Nat
  rxPayload : Vector Byte 10
  rxValid : Bool
  outFlags : Byte
  peerFlags : Byte
  hdrA : Byte
  hdrARx : Byte
  rbVec : Byte
  diag : Byte
  cmdOk : Bool
  cmdResult : Bool
  txState : BitVec 2
  txSlot : Nat
  txrSeen : Bool
  idleCtr : Nat
deriving DecidableEq, Repr

/-- The outputs of a state (10_state.md R20). -/
def outputs (s : State) : Outputs where
  lineOe := lineOe s
  lineOut := lineOut s
  tEdge := s.tEdge
  linkState := linkCode s.linkState
  bitIdx := s.bitIdx
  byteIdx := s.byteIdx
  pkt := s.pkt
  curByte := s.curByte
  qBuf := s.qBuf
  qLen := s.qLen
  rxPayload := s.rxPayload
  rxValid := s.rxValid
  outFlags := s.outFlags
  peerFlags := s.peerFlags
  hdrA := s.hdrA
  hdrARx := s.hdrARx
  rbVec := s.rbVec
  diag := s.diag
  cmdOk := s.cmdOk
  cmdResult := s.cmdResult
  txState := txCode s.txState
  txSlot := s.txSlot
  txrSeen := s.txrSeen
  idleCtr := s.idleCtr

/-- What the block's host reads of the outputs: all but `pkt`, for which the port has no command
(47_host_commands.md R274, 60_exceptions.md R320), and the tick counters `t_edge` and `idle_ctr`, none of
which the host can read (60_exceptions.md R336; log entry 20). -/
structure HostView where
  linkState : BitVec 2
  bitIdx : Nat
  byteIdx : Nat
  curByte : Byte
  qBuf : Vector Byte 10
  qLen : Nat
  rxPayload : Vector Byte 10
  rxValid : Bool
  outFlags : Byte
  peerFlags : Byte
  hdrA : Byte
  hdrARx : Byte
  rbVec : Byte
  diag : Byte
  cmdOk : Bool
  cmdResult : Bool
  txState : BitVec 2
  txSlot : Nat
  txrSeen : Bool
deriving DecidableEq, Repr

/-- The host's view of the outputs (60_exceptions.md R320, R336). -/
def hostView (o : Outputs) : HostView where
  linkState := o.linkState
  bitIdx := o.bitIdx
  byteIdx := o.byteIdx
  curByte := o.curByte
  qBuf := o.qBuf
  qLen := o.qLen
  rxPayload := o.rxPayload
  rxValid := o.rxValid
  outFlags := o.outFlags
  peerFlags := o.peerFlags
  hdrA := o.hdrA
  hdrARx := o.hdrARx
  rbVec := o.rbVec
  diag := o.diag
  cmdOk := o.cmdOk
  cmdResult := o.cmdResult
  txState := o.txState
  txSlot := o.txSlot
  txrSeen := o.txrSeen

end Sys2Proof.Machine
end

