-- ==== Sys2Proof/Machine/Tick.lean ====
section
/-! DEFINITION. One tick: its inputs, the fetch of the host's operation, and the sub-steps of 20_memory.md
R70 in their order, each of which runs the operation that the port, the line or the engine selects
through `exec`. -/

namespace Sys2Proof.Machine

open Sys2Proof

/-! ## Inputs -/

/-- The port with `cmd_valid` = 0. -/
def quietPort : HostPort := ⟨false, 0, 0, 0, zeros 10⟩

/-- The tick that the trace does not list: no hardware reset, no command, the peer releases the line
(log entry 2). -/
def quietInput : TickInput := ⟨false, none, .peer .released, .port quietPort⟩

/-- The inputs of the coming tick (00_scope.md R17). -/
def nextInput (s : State) : TickInput := s.trace.headD quietInput

/-- `line_in` in the coming tick: as listed, or the bench net's level, which may not exist
(20_memory.md R73). -/
def lineLevel (inp : TickInput) (s : State) : Option Level :=
  match inp.line with
  | .sampled level => some level
  | .peer drive => benchNet [lineDrive s, drive] s.net

/-- The inputs of the tick are consumed and the net's level is remembered. -/
def beginTick (line : Level) (s : State) : State := { s with trace := s.trace.tail, net := line }

/-- Sub-step 1 of 20_memory.md R70: the hardware-reset state; the run's constants and inputs, the bench
net and the surrounding software are not the block's (70_reset_and_hazards.md R350). -/
def hardwareReset (pins : Option Pins) (s : State) : State :=
  { State.reset with cfg := s.cfg, pins := pins.getD s.pins, trace := s.trace, net := s.net,
                     text := s.text, textReady := s.textReady }

/-- A configuration input differs from its constant value (10_state.md R20, R40). -/
abbrev pinsChange (inp : TickInput) (s : State) : Prop := inp.pins.getD s.pins ≠ s.pins

/-! ## Fetch -/

/-- The operations a host can ask for: the commands of the port, and the requests that stand for one of
them (log entry 9): raising, lowering or taking a flag, sending a payload with a command id, sending the
next text fragment. -/
def hostLevelFlag : FlagForm → Bool
  | .set => true
  | .clear => true
  | .take => true
  | .seen => false

/-- Whether a host can ask for an operation (log entry 9). -/
def hostLevel : Instr → Bool
  | .reset _ => false
  | .one _ => false
  | .zero _ => false
  | .byte _ => false
  | .packet _ => false
  | .burst _ => false
  | .hostReady f => hostLevelFlag f
  | .dataAvail f => hostLevelFlag f
  | .busAvail f => hostLevelFlag f
  | .errorHost f => hostLevelFlag f
  | .txReady f => hostLevelFlag f
  | .readyForText f => hostLevelFlag f
  | .timerRequest f => hostLevelFlag f
  | .errorRemote f => hostLevelFlag f
  | .isInit f => hostLevelFlag f
  | .cmdCapabilities leg _ => decide (leg = .enqueue)
  | .cmdDisplayMode leg _ => decide (leg = .enqueue)
  | .cmdBacklight leg _ => decide (leg = .enqueue)
  | .cmdVolume leg _ => decide (leg = .enqueue)
  | .cmdPlayMode leg _ => decide (leg = .enqueue)
  | .cmdRecMode leg _ => decide (leg = .enqueue)
  | .cmdBattery leg _ => decide (leg = .enqueue)
  | .cmdEq leg _ => decide (leg = .enqueue)
  | .cmdAlarm leg _ => decide (leg = .enqueue)
  | .cmdTrack leg _ => decide (leg = .enqueue)
  | .cmdPlayState leg _ => decide (leg = .enqueue)
  | .cmdDisplay leg _ => decide (leg = .enqueue)
  | .cmdText leg _ => decide (leg = .enqueue)
  | .cmdRequestWriteAddress leg _ => decide (leg = .enqueue)
  | .cmdTrackCount leg _ => decide (leg = .enqueue)
  | .cmdSetTrack leg _ => decide (leg = .enqueue)
  | .hnop => true
  | .send _ _ => true
  | .take _ => true
  | .setf _ => true
  | .clrf _ => true
  | .wra _ => true
  | .clrd _ => true
  | .hostopReserved7 => true
  | .clkStep _ => false
  | .falling _ => false
  | .asmStart => false
  | .asmBit _ => false
  | .asmAbandon => false
  | .asmComplete => false
  | .parFold _ => false
  | .parCheck _ => false
  | .parAppend => false
  | .playerStep _ => false
  | .hdrDecode _ => false
  | .hdrEncode => false
  | .rxSync => false
  | .rxStart => false
  | .rxBit _ => false
  | .rxDone => false
  | .rxResync => false
  | .rxTimeout => false
  | .rxInject _ => false
  | .rxReply _ => false
  | .txStart => false
  | .txPreamble => false
  | .txHdra => false
  | .txOverlay _ => false
  | .txFold => false
  | .txFlags => false
  | .txDequeue => false
  | .txPayload => false
  | .txParity => false
  | .txEnd => false
  | .rbEnter => false
  | .rbBit _ => false
  | .rbDone => false
  | .rbAbort => false
  | .rbTimeout => false
  | .chunkNext => true

/-- The bytes of the host's operation in a tick, if it presents one: the port's signals as a word, or the
request's bytes. -/
def fetchWord (inp : TickInput) : Option (List Byte) :=
  match inp.host with
  | .port p => if p.valid then some p.word else none
  | .request word => some word
  | .newText _ => none

/-- Decode a fetched word and run its operation. -/
def runWord (word : List Byte) (s : State) : Outcome :=
  match decode word with
  | .error why => .refused (.illegalWord why)
  | .ok (i, _) => if hostLevel i then exec i s else .refused .notHostRequest

/-! ## Sub-steps -/

/-- A new text that the application sets in a tick. The session is not the block's, so it is taken in a
tick with `rst` = 1 too (49_text_chunker_boundary.md R306, 70_reset_and_hazards.md R350; DESIGN CHOICE,
log entry 25). -/
def takeNewText (inp : TickInput) (s : State) : State :=
  match inp.host with
  | .newText t => setText t s
  | _ => s

/-- Sub-step 3 of 20_memory.md R70: the host command, if there is one (47_host_commands.md R265); the
application may set a new text instead (49_text_chunker_boundary.md R306; not both in one tick, DESIGN
CHOICE, log entry 26). -/
def hostPhase (inp : TickInput) (s : State) : Outcome :=
  match inp.host with
  | .newText t => .next (setText t s)
  | _ =>
    match fetchWord inp with
    | some word => runWord word s
    | none => .next s

/-- Sub-step 5: the inject machine, receive role only, and not while a burst plays (20_memory.md R70,
45_link_rx.md R218). -/
def injectPhase (line : Level) (s : State) : Outcome :=
  match s.pins.role with
  | .rx => exec (.rxInject (.tick line)) s
  | .tx => .next s

/-- The time-out that a tick without an edge may bring (45_link_rx.md R211, 46_link_tx.md R248). -/
def timeoutInstr (s : State) : Instr :=
  match s.pins.role with
  | .rx => .rxTimeout
  | .tx => .rbTimeout

/-- The operation that the edge reported in this tick is: a line symbol by its LOW time, a falling edge,
or the time-out test where there is none (00_scope.md R13, 60_exceptions.md R331). -/
def edgeInstr (s : State) : Instr :=
  match s.ephem with
  | .edge (.rising d) => symbolInstr s.cfg d
  | .edge (.falling d) => .falling d
  | _ => timeoutInstr s

/-- Sub-step 6: the receive or read-back path consumes the edge (20_memory.md R70). -/
def receivePhase (s : State) : Outcome := exec (edgeInstr s) s

/-- Sub-step 7: the transmit path, chosen by the value `tx_state` had before sub-step 6
(20_memory.md R70). -/
def transmitPhase (before : TxState) (line : Level) (s : State) : Outcome :=
  match before, s.pins.role with
  | .play, _ => exec (.playerStep line) s
  | .idle, .tx => exec .txStart s
  | .idle, .rx => .next s
  | .readBack, _ => .next s

/-- What was handed on inside the tick ends with it (10_state.md R23). -/
def endTick (s : State) : State := { s with ephem := .empty }

/-- Sub-steps 4 to 7: the engine step of a tick. -/
def engine (before : TxState) (line : Level) (s : State) : Outcome :=
  andThen (exec (.clkStep line) s) fun s =>
  andThen (injectPhase line s) fun s =>
  andThen (receivePhase s) fun s =>
  andThen (transmitPhase before line s) fun s => .next (endTick s)

/-- One tick with its inputs and the level of the line (20_memory.md R70). -/
def tick (inp : TickInput) (line : Level) (s : State) : Outcome :=
  if inp.rst then .next (takeNewText inp (hardwareReset inp.pins (beginTick line s)))
  else if pinsChange inp s then .fault .configChanged
  else andThen (hostPhase inp (clearPulses (beginTick line s))) (engine s.txState line)

/-- One step of the machine: a tick of a well-formed configuration (00_scope.md R9) whose line has a
level (20_memory.md R74). -/
def stepTick (s : State) : Outcome :=
  if s.cfg.wellFormed then
    match lineLevel (nextInput s) s with
    | some line => tick (nextInput s) line s
    | none => .fault .contention
  else .refused .illFormedConfig

/-- A tick in which the host asks for the operation with these bytes, and nothing else happens. -/
def requestInput (word : List Byte) : TickInput := { quietInput with host := .request word }

/-- The state with one more tick in front of its listed inputs. -/
def withInput (inp : TickInput) (s : State) : State := { s with trace := inp :: s.trace }

end Sys2Proof.Machine
end

