-- ==== Sys2Proof/Machine/Step.lean ====
section
/-! DEFINITION. The step of the machine, one tick, and the placing of a table word as the operation of the
next tick. -/

namespace Sys2Proof.Machine

open Sys2Proof

/-- One step is one tick (00_scope.md R8, 20_memory.md R70). -/
def step (s : State) : Host.Outcome State Fault Refusal := stepTick s

/-- The state with a tick in front of its inputs in which the host asks for the operation whose table word
is `w` (log entry 8): the very next step fetches these bytes and runs it. -/
def State.withFetchWord (s : State) (nbits w : Nat) : State :=
  withInput (requestInput (tableBytes nbits w)) s

end Sys2Proof.Machine
end

