-- ==== Sys2Proof/Machine/Bench.lean ====
section
/-! DEFINITION. Two instances on one bench net (00_scope.md R17, 20_memory.md R73, 60_exceptions.md R337),
and the stimulus notation of scripted peers and hosts (30_encoding.md R96, R97). Both are built from the
one instance's step; `Sys2Proof.core` is one instance. -/

namespace Sys2Proof.Machine

open Sys2Proof

/-! ## Two instances -/

/-- Give the coming tick of an instance this level of the line; its other inputs stay as listed. -/
def withLine (level : Level) (s : State) : State :=
  { s with trace := { nextInput s with line := .sampled level } :: s.trace.tail }

/-- The drive of a scripted peer in the coming tick, if the tick's inputs name one. -/
def peerDrive (s : State) : Drive :=
  match (nextInput s).line with
  | .peer drive => drive
  | .sampled _ => .released

/-- One tick of two instances and the first's scripted peer on one net, whose last level is the first
instance's `net`. The run is a fault where the net has no value (20_memory.md R74). -/
def pairStep (a b : State) : Host.Outcome (State × State) Fault Refusal :=
  match benchNet [lineDrive a, lineDrive b, peerDrive a] a.net with
  | none => .fault .contention
  | some level =>
    match stepTick (withLine level a), stepTick (withLine level b) with
    | .next a', .next b' => .next (a', b')
    | .fault r, _ => .fault r
    | .refused r, _ => .refused r
    | _, .fault r => .fault r
    | _, .refused r => .refused r

/-! ## Stimulus notation -/

/-- A peer statement or pseudo-statement (30_encoding.md R96, R97). -/
inductive PeerStmt where
  | low (n : Nat)
  | high (n : Nat)
  | rel (n : Nat)
  | reset
  | bit (b : Bool)
  | byte (v : Byte)
  | packet (a f : Byte) (p : List Byte)
  | burst (p : List Byte)
  | pulse (d : Nat)
deriving DecidableEq, Repr

/-- The drives of a bit of the notation: `BIT 1` is LOW 18, HIGH 220; `BIT 0` is LOW 238, HIGH 18. -/
def scriptBit (cfg : Config) (b : Bool) : List Drive :=
  if b then List.replicate cfg.sUs .low ++ List.replicate cfg.lUs .high
  else List.replicate (cfg.sUs + cfg.lUs) .low ++ List.replicate cfg.high0Us .high

/-- The drives of `BYTE v`: its eight bits and `HIGH 80`. -/
def scriptByte (cfg : Config) (v : Byte) : List Drive :=
  scriptBit cfg (bitOf v 0) ++ scriptBit cfg (bitOf v 1) ++ scriptBit cfg (bitOf v 2) ++
    scriptBit cfg (bitOf v 3) ++ scriptBit cfg (bitOf v 4) ++ scriptBit cfg (bitOf v 5) ++
    scriptBit cfg (bitOf v 6) ++ scriptBit cfg (bitOf v 7) ++ List.replicate cfg.idleUs .high

/-- The drives of bytes one after another. -/
def scriptBytes (cfg : Config) : List Byte → List Drive
  | [] => []
  | v :: rest => scriptByte cfg v ++ scriptBytes cfg rest

/-- The drives of `RESET`. -/
def scriptReset (cfg : Config) : List Drive :=
  List.replicate cfg.resetTxLowUs .low ++ List.replicate cfg.resetTxHighUs .high

/-- The ten payload bytes of a `PACKET` or `BURST` statement. R97 writes p0 to p9: a shorter list is
followed by 0x00 bytes (95_test_vectors.md V36, V43), and a longer one is cut to ten (DESIGN CHOICE,
log entry 21). -/
def framePayload (p : List Byte) : List Byte := (pad10 p).toList

/-- The drives of a payload and its parity byte (30_encoding.md R97). -/
def scriptPayload (cfg : Config) (p : List Byte) : List Drive :=
  scriptBytes cfg (framePayload p) ++ scriptByte cfg (xorFold (framePayload p))

/-- The HIGH after a bare pulse: 18 ticks under every configuration. R97 gives its value with the
defaults only (DESIGN CHOICE, log entry 21). -/
def pulseTail : Nat := 18

/-- The drives of a peer statement, one a tick (30_encoding.md R96, R97). -/
def scriptDrives (cfg : Config) : PeerStmt → List Drive
  | .low n => List.replicate n .low
  | .high n => List.replicate n .high
  | .rel n => List.replicate n .released
  | .reset => scriptReset cfg
  | .bit b => scriptBit cfg b
  | .byte v => scriptByte cfg v
  | .packet a f p =>
    scriptReset cfg ++ scriptByte cfg a ++ scriptByte cfg f ++ scriptPayload cfg p
  | .burst p => scriptPayload cfg p
  | .pulse d => List.replicate d .low ++ List.replicate pulseTail .high

/-- A host statement (30_encoding.md R96): the tick, and the command. -/
inductive HostStmt where
  | hnop
  | send (data : List Byte)
  | take (k : Byte)
  | setf (m : Byte)
  | clrf (m : Byte)
  | wra (v : Byte)
  | clrd (m : Byte)
deriving DecidableEq, Repr

/-- The port's signals for a host statement (30_encoding.md R91). A SEND of more than fifteen bytes is
presented with `cmd_len` 15, which the block refuses like every length above ten (DESIGN CHOICE,
log entry 21). -/
def hostSignals : HostStmt → HostPort
  | .hnop => ⟨true, 0, 0, 0, zeros 10⟩
  | .send data => ⟨true, 1, 0, BitVec.ofNat 4 (min data.length 15), pad10 data⟩
  | .take k => ⟨true, 2, k, 0, zeros 10⟩
  | .setf m => ⟨true, 3, m, 0, zeros 10⟩
  | .clrf m => ⟨true, 4, m, 0, zeros 10⟩
  | .wra v => ⟨true, 5, v, 0, zeros 10⟩
  | .clrd m => ⟨true, 6, m, 0, zeros 10⟩

/-- The command at a tick of a host script: at most one (00_scope.md R8), the first that the script lists
(DESIGN CHOICE, log entry 21). -/
def commandAt (t : Nat) : List (Nat × HostStmt) → HostPort
  | [] => quietPort
  | (u, stmt) :: rest => if u = t then hostSignals stmt else commandAt t rest

/-- The inputs of the ticks from `t` on, one for each drive of the peer. -/
def scriptInputs (host : List (Nat × HostStmt)) : Nat → List Drive → List TickInput
  | _, [] => []
  | t, d :: rest => ⟨false, none, .peer d, .port (commandAt t host)⟩ :: scriptInputs host (t + 1) rest

/-- How many ticks a host script needs: one more than its last tick. -/
def hostTicks : List (Nat × HostStmt) → Nat
  | [] => 0
  | (u, _) :: rest => max (u + 1) (hostTicks rest)

/-- The drives of a peer script for at least `n` ticks: after its last statement the peer releases the
line. -/
def peerDrives (cfg : Config) (peer : List PeerStmt) (n : Nat) : List Drive :=
  peer.flatMap (scriptDrives cfg) ++
    List.replicate (n - (peer.flatMap (scriptDrives cfg)).length) .released

/-- The input trace of a scripted peer and a scripted host from tick 0 on, to the last statement of
either (30_encoding.md R96). -/
def scriptTrace (cfg : Config) (peer : List PeerStmt) (host : List (Nat × HostStmt)) :
    List TickInput :=
  scriptInputs host 0 (peerDrives cfg peer (hostTicks host))

/-! ## Expectations -/

/-- `n` steps of the machine, stopping at the first fault or refusal. -/
def steps (n : Nat) (s : State) : Outcome := Host.Core.run Sys2Proof.core n s

/-- The name of a visible output in an `EXPECT` (30_encoding.md R96, 10_state.md R20 to R39). -/
inductive OutputName where
  | lineOe
  | lineOut
  | tEdge
  | linkState
  | bitIdx
  | byteIdx
  | pkt
  | curByte
  | qBuf
  | qLen
  | rxPayload
  | rxValid
  | outFlags
  | peerFlags
  | hdrA
  | hdrARx
  | rbVec
  | diag
  | cmdOk
  | cmdResult
  | txState
  | txSlot
  | txrSeen
  | idleCtr
deriving DecidableEq, Repr

/-- The value of a visible output: a number (a bit is 0 or 1, HIGH is 1, 00_scope.md R11), or the bytes
of a buffer. -/
inductive OutputValue where
  | num (n : Nat)
  | bytes (l : List Byte)
deriving DecidableEq, Repr

/-- The named output's value. -/
def outputValue (o : Outputs) : OutputName → OutputValue
  | .lineOe => .num o.lineOe.toNat
  | .lineOut => .num (levelBit o.lineOut).toNat
  | .tEdge => .num o.tEdge
  | .linkState => .num o.linkState.toNat
  | .bitIdx => .num o.bitIdx
  | .byteIdx => .num o.byteIdx
  | .pkt => .bytes o.pkt.toList
  | .curByte => .num o.curByte.toNat
  | .qBuf => .bytes o.qBuf.toList
  | .qLen => .num o.qLen
  | .rxPayload => .bytes o.rxPayload.toList
  | .rxValid => .num o.rxValid.toNat
  | .outFlags => .num o.outFlags.toNat
  | .peerFlags => .num o.peerFlags.toNat
  | .hdrA => .num o.hdrA.toNat
  | .hdrARx => .num o.hdrARx.toNat
  | .rbVec => .num o.rbVec.toNat
  | .diag => .num o.diag.toNat
  | .cmdOk => .num o.cmdOk.toNat
  | .cmdResult => .num o.cmdResult.toNat
  | .txState => .num o.txState.toNat
  | .txSlot => .num o.txSlot
  | .txrSeen => .num o.txrSeen.toNat
  | .idleCtr => .num o.idleCtr

/-- `EXPECT name = value @t` (30_encoding.md R96). -/
structure Expect where
  name : OutputName
  value : OutputValue
  tick : Nat
deriving DecidableEq, Repr

/-- The expectation holds of the run from a state: the output has the value after the step of its tick
(30_encoding.md R96). -/
def Expect.holds (e : Expect) (s : State) : Bool :=
  match steps (e.tick + 1) s with
  | .next t => decide (outputValue (outputs t) e.name = e.value)
  | _ => false

/-- A script: what the peer does, what the host does, and what is expected (30_encoding.md R96). -/
structure Script where
  peer : List PeerStmt
  host : List (Nat × HostStmt)
  expects : List Expect
deriving DecidableEq, Repr

/-- The start of a script's run: the hardware-reset state with its configuration and its input trace
(00_scope.md R17). -/
def Script.start (script : Script) (cfg : Config) (pins : Pins) : State :=
  { State.reset with cfg := cfg, pins := pins, trace := scriptTrace cfg script.peer script.host }

/-- Every expectation of a script holds. -/
def Script.holds (script : Script) (cfg : Config) (pins : Pins) : Bool :=
  script.expects.all fun e => e.holds (script.start cfg pins)

end Sys2Proof.Machine
end

