-- ==== Sys2Proof/Safety.lean ====
section
/-! DEFINITION. What claims speak of: the invariant of the machine, when a step is safe, and runs of several
ticks or operations. -/

namespace Sys2Proof.Machine

open Sys2Proof

/-- A segment of at least one tick, with its operands in range (10_state.md R41). -/
def Segment.inRange (cfg : Config) : Segment → Prop
  | .d0 n => 1 ≤ n ∧ n ≤ cfg.ctrMax
  | .d1 n => 1 ≤ n ∧ n ≤ cfg.ctrMax
  | .z n => 1 ≤ n ∧ n ≤ cfg.ctrMax
  | .zs n i k => 1 ≤ n ∧ n ≤ cfg.ctrMax ∧ i < 8 ∧ k < n

/-- A frame is being gathered: in `GP`, or in `T_RB` (45_link_rx.md R208, 46_link_tx.md R244). -/
def gathering (s : State) : Prop :=
  (s.pins.role = .rx ∧ s.linkState = .gatheringPacket) ∨ readingBack s

/-- The ranges and relations that the rules give the state between two ticks. -/
structure Invariant (s : State) : Prop where
  /-- only a well-formed configuration runs (00_scope.md R9) -/
  config : s.cfg.wellFormed
  /-- counters saturate (10_state.md R22, R36; 42_parity.md R159) -/
  tEdge_le : s.tEdge ≤ s.cfg.ctrMax
  idleCtr_le : s.idleCtr ≤ s.cfg.ctrMax
  injCtr_le : s.injCtr ≤ s.cfg.ctrMax
  /-- 10_state.md R27 -/
  bitIdx_lt : s.bitIdx < 8
  /-- the bits of `cur_byte` at `bit_idx` and above are 0 (41_packet_assembler.md R141) -/
  curByte_lt : s.curByte.toNat < 2 ^ s.bitIdx
  /-- a frame that reaches its length leaves the gathering state at once (41_packet_assembler.md R143) -/
  byteIdx_lt : s.byteIdx < frameLen s
  /-- outside a frame the counters are 0 (10_state.md R24) -/
  not_gathering : ¬ gathering s → s.bitIdx = 0 ∧ s.byteIdx = 0
  /-- 10_state.md R30 -/
  qLen_le : s.qLen ≤ 10
  /-- a party only sets bits it owns (44_arbitration_header.md R195) -/
  owned : s.outFlags &&& ~~~(ownMask s.cfg s.pins.role) = 0x00#8
  /-- bits 5 to 7 of `diag` are never set (60_exceptions.md R321) -/
  diag_low : s.diag &&& 0xE0#8 = 0x00#8
  /-- in `RD` the line is HIGH (45_link_rx.md R207) -/
  rd_high : s.linkState = .resetDetected → s.prevLevel = .high
  /-- the player runs exactly while its list is not empty (43_pulse_encoder.md R175) -/
  playing_iff : s.txState = .play ↔ s.segs ≠ []
  /-- 10_state.md R41 -/
  segs_inRange : ∀ g ∈ s.segs, g.inRange s.cfg
  segs_le : s.segs.length ≤ 276
  /-- the head's count is 1 to n (10_state.md R41) -/
  segRem_range : ∀ g, s.segs.head? = some g → 1 ≤ s.segRem ∧ s.segRem ≤ g.length
  /-- 10_state.md R36 -/
  txSlot_le : s.txSlot ≤ 13
  txSlot_zero : s.txState ≠ .play → s.txSlot = 0
  /-- the transmit role's link state stays `AS` and it never injects (46_link_tx.md R231) -/
  tx_role : s.pins.role = .tx → s.linkState = .awaitingSync ∧ s.injState = .off
  /-- the receive role never reads back and has no slots (10_state.md R36) -/
  rx_role : s.pins.role = .rx → s.txState ≠ .readBack ∧ s.txSlot = 0
  /-- while a reply burst plays the machine stays in `AS` (45_link_rx.md R218) -/
  rx_playing : s.pins.role = .rx → s.txState = .play → s.linkState = .awaitingSync
  /-- an inject phase in use has ticks left (42_parity.md R159) -/
  injCtr_pos : s.injState ≠ .off → 1 ≤ s.injCtr
  /-- `next_unsent_index` is in the string, and short of its end while the session is open; the string has
  its maximum length (49_text_chunker_boundary.md R306) -/
  cursor_le : s.text.cursor ≤ s.text.text.length
  cursor_open : s.text.active = true → s.text.cursor < s.text.text.length
  text_bounded : s.text.text.length ≤ Config.maxTextLen
  /-- nothing is handed on from one tick to the next (10_state.md R23) -/
  ephem_empty : s.ephem = .empty

/-- A step that has a defined continuation: no contention, no change of the configuration inputs
(93_implementation_defined.md U1, U14), nothing refused. -/
def SafeStep (s : State) : Prop := ∃ t, step s = .next t

/-- The coming tick is an ordinary one: `rst` is 0, the configuration inputs stay, and the line has the
level `line`. -/
def plainTick (line : Level) (s : State) : Prop :=
  s.cfg.wellFormed ∧ (nextInput s).rst = false ∧ ¬ pinsChange (nextInput s) s ∧
    lineLevel (nextInput s) s = some line

/-- The coming tick has no host command and no new text. -/
def hostSilent (s : State) : Prop := ∃ p, (nextInput s).host = .port p ∧ p.valid = false

/-- Perform operations one after another. -/
def execAll : List Instr → State → Outcome
  | [], s => .next s
  | i :: rest, s => andThen (exec i s) (execAll rest)

/-- A tick whose trace gives `line_in` itself and in which the host is silent. -/
def sampledInput (level : Level) : TickInput := { quietInput with line := .sampled level }

/-- A trace of `n` ticks with this level of the line and a silent host. -/
def heldLine (n : Nat) (level : Level) : List TickInput := List.replicate n (sampledInput level)

/-- `n` ticks of the player alone with this level of the line. -/
def playTicks : Nat → Level → State → State
  | 0, _, s => s
  | n + 1, line, s => playTicks n line (playTick line s)

/-- The bits of a byte in their order on the wire, bit 0 first (20_memory.md R62). -/
def byteBits (v : Byte) : List Bool := (List.range 8).map (bitOf v)

/-- The operation a decoded bit is: a `ONE` of `d1` LOW ticks or a `ZERO` of `d0` (30_encoding.md R81). -/
def bitInstr (d1 d0 : Nat) (b : Bool) : Instr := if b then .one (.decoded d1) else .zero (.decoded d0)

/-- The rows of format `CMDID`: payload byte 0 and the operation (30_encoding.md R90). -/
def commandRows : List (Byte × (Leg → List Byte → Instr)) :=
  [(0x01#8, .cmdCapabilities), (0x03#8, .cmdDisplayMode), (0x05#8, .cmdBacklight),
   (0x40#8, .cmdVolume), (0x41#8, .cmdPlayMode), (0x42#8, .cmdRecMode), (0x43#8, .cmdBattery),
   (0x46#8, .cmdEq), (0x47#8, .cmdAlarm), (0xA0#8, .cmdTrack), (0xA1#8, .cmdPlayState),
   (0xA2#8, .cmdDisplay), (0xC8#8, .cmdText), (0x18#8, .cmdRequestWriteAddress),
   (0xD8#8, .cmdTrackCount), (0xD9#8, .cmdSetTrack)]

/-- The rows of format `HFLAG`: the bit and the operation (30_encoding.md R88). -/
def hostFlagRows : List (Nat × (FlagForm → Instr)) :=
  [(7, .hostReady), (0, .dataAvail), (4, .busAvail), (6, .errorHost)]

/-- The rows of format `RFLAG`: the bit and the operation (30_encoding.md R89). -/
def remoteFlagRows : List (Nat × (FlagForm → Instr)) :=
  [(4, .txReady), (1, .readyForText), (2, .timerRequest), (6, .errorRemote), (7, .isInit)]

/-- The fragments of a session until it reports completion, at most `fuel` of them
(49_text_chunker_boundary.md R309). -/
def fragments (cfg : Config) : Nat → TextSession → List (ChunkTag × List Byte)
  | 0, _ => []
  | fuel + 1, t =>
    if t.active then
      ((nextChunk cfg t).1, (nextChunk cfg t).2.1) :: fragments cfg fuel (nextChunk cfg t).2.2
    else []

end Sys2Proof.Machine
end

