-- ==== Sys2Proof/Certificates/Slice0/Obligations.lean ====
section
/-! DEFINITION. The statements for the provers, from the numbered rules of spec/. A next state written as a
record update says its frame: every field that the update does not name is unchanged. -/

open Sys2Proof Sys2Proof.Machine

/-! ## The step -/

/-- 20_memory.md R70: an ordinary tick in which the host asks for operation `i` runs `exec i` after the
one-tick outputs have fallen, then the engine; a tick with a silent host runs the engine alone. The input
trace moves on and the net's level is remembered (log entries 2 and 3). That a request's word may stand in
place of the port, and which words a host may present (`hostLevel`), is the model's choice (log entry 9). A
tick with a new text gives the transmit role's software a session with that text
(49_text_chunker_boundary.md R305, R306); of a text longer than `MAX_TEXT_LEN` some string of at most that
length, and the empty string leaves an old session (the model's choices, log entries 15 and 24). -/
def Obligations.StepRunsFetchedOperation : Prop :=
  ∀ (s : State) (line : Level), plainTick line s →
    (∀ word rest i, fetchWord (nextInput s) = some word → decode word = .ok (i, rest) →
      hostLevel i = true →
      step s =
        andThen (exec i { s with trace := s.trace.tail, net := line, rxValid := false,
                                 cmdOk := false, cmdResult := false })
          (engine s.txState line)) ∧
    (hostSilent s →
      step s = engine s.txState line { s with trace := s.trace.tail, net := line, rxValid := false,
                                              cmdOk := false, cmdResult := false }) ∧
    (∀ text, (nextInput s).host = .newText text →
      ∃ kept, kept.length ≤ Config.maxTextLen ∧
        (text.length ≤ Config.maxTextLen → kept = text) ∧
        step s = engine s.txState line { s with
          trace := s.trace.tail, net := line, rxValid := false, cmdOk := false, cmdResult := false,
          text := if s.pins.role = .tx ∧ kept ≠ [] then ⟨kept, 0, true⟩ else s.text })

/-- 20_memory.md R70, sub-steps 4 to 7: the engine runs CLK.STEP, then in the receive role the inject's
tick, then the operation that the reported edge is (or the time-out test), then the player's step or the
cycle-start test, chosen by the value `tx_state` had before. What was handed on inside the tick is empty
after it. -/
def Obligations.EngineRunsItsOperations : Prop :=
  (∀ (before : TxState) (line : Level) (s : State),
    engine before line s =
      andThen (exec (.clkStep line) s) fun a =>
      andThen (injectPhase line a) fun b =>
      andThen (receivePhase b) fun c =>
      andThen (transmitPhase before line c) fun d => .next { d with ephem := .empty }) ∧
  (∀ (line : Level) (s : State), s.pins.role = .rx →
    injectPhase line s = exec (.rxInject (.tick line)) s ∧
    (s.ephem = .edge .none → receivePhase s = exec .rxTimeout s) ∧
    transmitPhase .idle line s = .next s) ∧
  (∀ (line : Level) (s : State), s.pins.role = .tx →
    injectPhase line s = .next s ∧
    (s.ephem = .edge .none → receivePhase s = exec .rbTimeout s) ∧
    transmitPhase .idle line s = exec .txStart s) ∧
  (∀ (line : Level) (s : State) (d : Nat),
    (s.ephem = .edge (.rising d) → receivePhase s = exec (symbolInstr s.cfg d) s) ∧
    (s.ephem = .edge (.falling d) → receivePhase s = exec (.falling d) s) ∧
    transmitPhase .play line s = exec (.playerStep line) s ∧
    transmitPhase .readBack line s = .next s)

/-- Where a step stops: an ill-formed configuration (00_scope.md R9, and the further conditions of log entry
5), opposite drives on the net (20_memory.md R74), a configuration input that changes while `rst` = 0
(93_implementation_defined.md U14), a request whose bytes are no operation or no host's operation (the
model's choice, log entry 9). Nothing else stops it: with a well-formed configuration and a level of the
line, a tick with `rst` = 1, with the port's signals, with a request that a host may make, or with a new
text of any length completes. -/
def Obligations.StopsOfAStep : Prop :=
  (∀ s : State, ¬ s.cfg.wellFormed → step s = .refused .illFormedConfig) ∧
  (∀ s : State, s.cfg.wellFormed → lineLevel (nextInput s) s = none → step s = .fault .contention) ∧
  (∀ (s : State) (line : Level), s.cfg.wellFormed → lineLevel (nextInput s) s = some line →
    (nextInput s).rst = false → pinsChange (nextInput s) s → step s = .fault .configChanged) ∧
  (∀ (s : State) (line : Level) (word : List Byte), plainTick line s →
    fetchWord (nextInput s) = some word →
    (∀ why, decode word = .error why → step s = .refused (.illegalWord why)) ∧
    (∀ i rest, decode word = .ok (i, rest) → hostLevel i = false →
      step s = .refused .notHostRequest)) ∧
  (∀ (s : State) (line : Level), s.cfg.wellFormed → lineLevel (nextInput s) s = some line →
    ((nextInput s).rst = true ∨
      (plainTick line s ∧
        ((∃ text, (nextInput s).host = .newText text) ∨ (∃ port, (nextInput s).host = .port port) ∨
         (∃ word i rest, (nextInput s).host = .request word ∧ decode word = .ok (i, rest) ∧
           hostLevel i = true)))) →
    ∃ t, step s = .next t)

/-- 20_memory.md R73 and R74: the level of the net. A party that drives decides it, parties that drive the
same level are harmless, a net that nobody drives keeps its level, and opposite drives give no level.
10_state.md R43: what the block drives, in every state. The inject comes first, then the head segment while
the player runs; else the line is released and `line_out` is HIGH; after hardware reset it is released.
(R43's remark that the inject's drive and a playing burst never meet is not claimed, log entry 16.) -/
def Obligations.BenchNetLevel : Prop :=
  (∀ (drives : List Drive) (prev : Level),
    (.high ∈ drives → .low ∉ drives → benchNet drives prev = some .high) ∧
    (.low ∈ drives → .high ∉ drives → benchNet drives prev = some .low) ∧
    (.high ∉ drives → .low ∉ drives → benchNet drives prev = some prev) ∧
    (.high ∈ drives → .low ∈ drives → benchNet drives prev = none)) ∧
  (∀ s : State,
    (s.injState = .drive → lineOe s = true ∧ lineOut s = .high) ∧
    (s.injState ≠ .drive → s.txState = .play → ∀ (n i k : Nat) (rest : List Segment),
      (s.segs = .d0 n :: rest → lineOe s = true ∧ lineOut s = .low) ∧
      (s.segs = .d1 n :: rest → lineOe s = true ∧ lineOut s = .high) ∧
      (s.segs = .z n :: rest ∨ s.segs = .zs n i k :: rest → lineOe s = false)) ∧
    (s.injState ≠ .drive → s.txState ≠ .play ∨ s.segs = [] → lineOe s = false) ∧
    (lineOe s = false → lineOut s = .high) ∧
    (lineOe s = false ↔ lineDrive s = .released) ∧
    (lineOe s = true → (lineDrive s = .low ↔ lineOut s = .low)) ∧
    (lineOe s = true → (lineDrive s = .high ↔ lineOut s = .high))) ∧
  lineOe State.reset = false

/-- 70_reset_and_hazards.md R350, 10_state.md R45: a tick with `rst` = 1 leaves every element at its
hardware-reset value, takes no command, and the line is not driven after it. The run's constants and inputs,
the net and the text session with its opportunity are not the block's (log entries 1 to 3, 14, 22); a new
text is taken in such a tick too (the model's choice, log entry 25); `seg_rem` has no reset value in the
spec (log entry 18). -/
def Obligations.HardwareResetState : Prop :=
  ∀ (s : State) (line : Level), s.cfg.wellFormed → lineLevel (nextInput s) s = some line →
    (nextInput s).rst = true →
    ∃ session : TextSession,
    step s = .next
      { prevLevel := .high, tEdge := 0, linkState := .awaitingSync, bitIdx := 0, byteIdx := 0,
        curByte := 0x00#8, pkt := Vector.replicate 13 0x00#8, qBuf := Vector.replicate 10 0x00#8,
        qLen := 0, txbuf := Vector.replicate 10 0x00#8, rxPayload := Vector.replicate 10 0x00#8,
        rxValid := false, outFlags := 0x00#8, peerFlags := 0x00#8, hdrA := 0x00#8,
        hdrARx := 0x00#8, rbVec := 0x00#8, diag := 0x00#8, cmdOk := false, cmdResult := false,
        txState := .idle, txSlot := 0, txrSeen := false, idleCtr := 0, segs := [], segRem := 0,
        injState := .off, injCtr := 0, cfg := s.cfg, pins := (nextInput s).pins.getD s.pins,
        trace := s.trace.tail, net := line, text := session, textReady := s.textReady,
        ephem := .empty } ∧
    ((∀ text, (nextInput s).host ≠ .newText text) → session = s.text) ∧
    (∀ text, (nextInput s).host = .newText text →
      ∃ kept, kept.length ≤ Config.maxTextLen ∧
        (text.length ≤ Config.maxTextLen → kept = text) ∧
        session = if ((nextInput s).pins.getD s.pins).role = .tx ∧ kept ≠ [] then ⟨kept, 0, true⟩
          else s.text) ∧
    (∀ t, step s = .next t → lineOe t = false)

/-- The invariant holds at `State.reset`. -/
def Obligations.InvAtReset : Prop := Invariant State.reset

/-- Every step keeps the invariant: counters in their ranges, the byte under assembly clear above `bit_idx`,
no frame left at its full length, only owned flag bits set, `diag` bits 5 to 7 at 0, the player's list empty
exactly when it does not run, every segment at least one tick long, the text session's cursor in its string.
-/
def Obligations.StepKeepsInv : Prop := ∀ s t : State, Invariant s → step s = .next t → Invariant t

/-- Every operation of the table has a next state in every state: "nothing in this block traps or stops"
(00_scope.md R12). -/
def Obligations.EveryOperationCompletes : Prop := ∀ (i : Instr) (s : State), ∃ t, exec i s = .next t

/-! ## Encodings -/

/-- Decoding the word of a well-formed operation gives it back and leaves the bytes after it. The container
of operation words is the model's (log entry 7). -/
def Obligations.DecodeOfEncode : Prop :=
  ∀ (i : Instr) (rest : List Byte), i.wellFormed = true → decode (encode i ++ rest) = .ok (i, rest)

/-- What the decoder answers is well-formed. Both the container of operation words that is decoded and what
counts as a well-formed operation of it are the model's choice (log entry 7); 30_encoding.md R80 names the
formats only. -/
def Obligations.DecodedIsWellFormed : Prop :=
  ∀ (word rest : List Byte) (i : Instr), decode word = .ok (i, rest) → i.wellFormed = true

/-- 30_encoding.md R91: the port's signals select the operation by `cmd_op`, with the operands each uses. A
request that is placed for the next tick is what that tick fetches (log entry 8). -/
def Obligations.PortSignalsSelectOperation : Prop :=
  (∀ p : HostPort,
    (p.op = 0 → decode p.word = .ok (.hnop, [])) ∧
    (p.op = 1 → decode p.word = .ok (.send p.len.toNat p.data.toList, [])) ∧
    (p.op = 2 → decode p.word = .ok (.take p.arg, [])) ∧
    (p.op = 3 → decode p.word = .ok (.setf p.arg, [])) ∧
    (p.op = 4 → decode p.word = .ok (.clrf p.arg, [])) ∧
    (p.op = 5 → decode p.word = .ok (.wra p.arg, [])) ∧
    (p.op = 6 → decode p.word = .ok (.clrd p.arg, [])) ∧
    (p.op = 7 → decode p.word = .ok (.hostopReserved7, []))) ∧
  (∀ (inp : TickInput) (p : HostPort), inp.host = .port p →
    fetchWord inp = if p.valid then some p.word else none) ∧
  (∀ (s : State) (nbits w : Nat),
    fetchWord (nextInput (s.withFetchWord nbits w)) = some (tableBytes nbits w) ∧
    (s.withFetchWord nbits w).trace.tail = s.trace)

/-- A few words written out from the encodings of 30_encoding.md R88 to R91 (a bare code byte and its
operands; the order of preference among formats that share a byte is log entry 7). -/
def Obligations.WordsWrittenOut : Prop :=
  decodeTableWord 8 0x00 = some .hnop ∧
  decodeTableWord 8 0x02 = some (.take 0x00#8) ∧
  decodeTableWord 24 0xD10003 = some (.setf 0xD1#8) ∧
  decodeTableWord 8 0x80 = some (.hostReady .set) ∧
  decodeTableWord 8 0xA0 = some (.cmdTrack .enqueue (List.replicate 9 0x00#8)) ∧
  decodeTableWord 8 0xC8 = some (.cmdText .enqueue (List.replicate 9 0x00#8)) ∧
  hflagRows 0xD1#8 .set =
    [.dataAvail .set, .busAvail .set, .errorHost .set, .hostReady .set] ∧
  rflagRows 0xD6#8 .set =
    [.readyForText .set, .timerRequest .set, .txReady .set, .errorRemote .set, .isInit .set]

/-- 40_pulse_decoder.md R125: exactly one symbol for every LOW time, in the order RESET, ONE, ZERO. -/
def Obligations.EveryLowTimeIsOneSymbol : Prop :=
  ∀ (cfg : Config) (d : Nat),
    (cfg.resetLowMin ≤ d ∧ d ≤ cfg.resetLowMax →
      classify cfg d = .reset ∧ symbolInstr cfg d = .reset (.decoded d)) ∧
    (¬ (cfg.resetLowMin ≤ d ∧ d ≤ cfg.resetLowMax) → d < cfg.pulseOnThreshold →
      classify cfg d = .one ∧ symbolInstr cfg d = .one (.decoded d)) ∧
    (¬ (cfg.resetLowMin ≤ d ∧ d ≤ cfg.resetLowMax) → ¬ d < cfg.pulseOnThreshold →
      classify cfg d = .zero ∧ symbolInstr cfg d = .zero (.decoded d))

/-! ## Buffers, bits and the parity -/

/-- Reading a byte or a bit after it is written gives what was written and every other one is as before; a
buffer made of a short list is the list and zeros (20_memory.md R60; 00_scope.md R11, R12). -/
def Obligations.ReadAfterWrite : Prop :=
  (∀ (n : Nat) (buf : Vector Byte n) (i j : Nat) (v : Byte), i < n →
    byteAt (putByte buf i v) j = if j = i then v else byteAt buf j) ∧
  (∀ (v : Byte) (i j : Nat) (b : Bool), i < 8 → j < 8 →
    bitOf (setBitTo v i b) j = if j = i then b else bitOf v j) ∧
  (∀ l : List Byte, l.length ≤ 10 →
    (pad10 l).toList = l ++ List.replicate (10 - l.length) 0x00#8)

/-- 42_parity.md R155: the fold, its value on ten equal bytes, that padding with zeros, the order of the
bytes and the same bits flipped in two bytes do not change it, and the worked example. -/
def Obligations.XorFoldLaws : Prop :=
  xorFold [] = 0x00#8 ∧
  (∀ (b : Byte) (rest : List Byte), xorFold (b :: rest) = b ^^^ xorFold rest) ∧
  xorFold (List.replicate 10 0x00#8) = 0x00#8 ∧
  xorFold (List.replicate 10 0xFF#8) = 0x00#8 ∧
  (∀ (l : List Byte) (n : Nat), xorFold (l ++ List.replicate n 0x00#8) = xorFold l) ∧
  (∀ l m : List Byte, l.Perm m → xorFold l = xorFold m) ∧
  (∀ (a b flip : Byte) (rest : List Byte),
    xorFold ((a ^^^ flip) :: (b ^^^ flip) :: rest) = xorFold (a :: b :: rest)) ∧
  xorFold [0xA0#8, 0x00#8, 0x00#8, 0x12#8, 0x00#8, 0x00#8, 0x00#8, 0x00#8, 0x00#8, 0x00#8] = 0xB2#8

/-- 42_parity.md R155 to R157: the fold of a list, the check of a packet's or a burst's trailer, and the
byte appended to the payload being sent are handed on; nothing else changes. The rules give functions; that
their value stands in the field `ephem` until the tick ends is the model's choice (log entry 11). -/
def Obligations.ParityOperations : Prop :=
  ∀ (s : State) (bytes : List Byte),
    exec (.parFold bytes) s = .next { s with ephem := .byte (xorFold bytes) } ∧
    exec (.parCheck .packet) s = .next { s with
      ephem := .verdict (decide (byteAt s.pkt 12 = xorFold ((s.pkt.toList.drop 2).take 10))) } ∧
    exec (.parCheck .burst) s = .next { s with
      ephem := .verdict (decide (byteAt s.pkt 10 = xorFold (s.pkt.toList.take 10))) } ∧
    exec .parAppend s = .next { s with ephem := .byte (xorFold s.txbuf.toList) }

/-! ## PulseClock and symbols -/

/-- 40_pulse_decoder.md R120: a level that stays is counted, saturating; a level that changes is reported
with the ticks the old one was held, and the count restarts at 1. -/
def Obligations.PulseClockStep : Prop :=
  ∀ (s : State) (line : Level),
    (line = s.prevLevel →
      exec (.clkStep line) s = .next { s with
        tEdge := min (s.tEdge + 1) s.cfg.ctrMax, ephem := .edge .none }) ∧
    (line = .high → s.prevLevel = .low →
      exec (.clkStep line) s = .next { s with
        prevLevel := .high, tEdge := 1, ephem := .edge (.rising s.tEdge) }) ∧
    (line = .low → s.prevLevel = .high →
      exec (.clkStep line) s = .next { s with
        prevLevel := .low, tEdge := 1, ephem := .edge (.falling s.tEdge) })

/-- 45_link_rx.md R206, R210: a link reset in `AS` leads to `RD`; in `GP` it abandons the frame, marks
`diag` by how much was gathered, and leads to `AS`. As a symbol and as the event, in a receiver that plays
no burst. -/
def Obligations.LinkResetInReceiver : Prop :=
  ∀ (s : State) (d : Nat), s.pins.role = .rx → s.txState = .idle → classify s.cfg d = .reset →
    (s.linkState = .awaitingSync → ∀ i ∈ [Instr.reset (.decoded d), .rxSync],
      exec i s = .next { s with linkState := .resetDetected }) ∧
    (s.linkState = .gatheringPacket → ∀ i ∈ [Instr.reset (.decoded d), .rxResync],
      exec i s = .next { s with
        diag := s.diag |||
          ((if s.cfg.minLogBits ≤ 8 * s.byteIdx + s.bitIdx then 0x02#8 else 0x00#8) |||
           (if s.cfg.minValidBytes ≤ s.byteIdx then 0x10#8 else 0x00#8)),
        bitIdx := 0, byteIdx := 0, curByte := 0x00#8, linkState := .awaitingSync })

/-- 46_link_tx.md R247: a link reset during the read-back abandons the burst, sets `diag` bit 3 and ends the
cycle. -/
def Obligations.LinkResetAbortsReadBack : Prop :=
  ∀ (s : State) (d : Nat), s.pins.role = .tx → s.txState = .readBack → classify s.cfg d = .reset →
    ∀ i ∈ [Instr.reset (.decoded d), .rbAbort],
      exec i s = .next { s with diag := s.diag ||| 0x08#8, bitIdx := 0, byteIdx := 0,
                                curByte := 0x00#8, txState := .idle, idleCtr := 0 }

/-- 40_pulse_decoder.md R126, 45_link_rx.md R212, R218: a symbol that no state consumes changes nothing. -/
def Obligations.UnconsumedSymbolsDropped : Prop :=
  ∀ (s : State) (d : Nat),
    ((s.pins.role = .rx ∧ s.txState ≠ .idle) ∨ (s.pins.role = .tx ∧ s.txState ≠ .readBack) →
      ∀ i ∈ [Instr.reset (.decoded d), .one (.decoded d), .zero (.decoded d), .falling d],
        exec i s = .next s) ∧
    (s.pins.role = .rx → s.linkState = .awaitingSync →
      ∀ i ∈ [Instr.one (.decoded d), .zero (.decoded d), .falling d], exec i s = .next s) ∧
    (s.pins.role = .rx → s.linkState = .gatheringPacket → exec (.falling d) s = .next s) ∧
    (s.pins.role = .tx → exec (.falling d) s = .next s)

/-- 45_link_rx.md R207, R213, 41_packet_assembler.md R140: the falling edge that ends `RD` starts a frame,
and arms the inject exactly when `INJ_EN` = 1 and a flag bit is set. -/
def Obligations.FallingEdgeStartsFrame : Prop :=
  ∀ (s : State) (d : Nat), s.pins.role = .rx → s.txState = .idle → s.linkState = .resetDetected →
    ∀ i ∈ [Instr.falling d, .rxStart],
      (s.pins.injEn = true → s.outFlags ≠ 0x00#8 →
        exec i s = .next { s with
          linkState := .gatheringPacket, bitIdx := 0, byteIdx := 0, curByte := 0x00#8,
          injState := .wait, injCtr := s.cfg.injectDelayUs }) ∧
      (s.pins.injEn = false ∨ s.outFlags = 0x00#8 →
        exec i s = .next { s with
          linkState := .gatheringPacket, bitIdx := 0, byteIdx := 0, curByte := 0x00#8 })

/-- 41_packet_assembler.md R140, R142: starting and abandoning a frame set the three counters to 0 and leave
`pkt` as it is. -/
def Obligations.FrameStartAndAbandon : Prop :=
  ∀ s : State, ∀ i ∈ [Instr.asmStart, .asmAbandon],
    exec i s = .next { s with bitIdx := 0, byteIdx := 0, curByte := 0x00#8 }

/-! ## Receiving bits and frames -/

/-- 41_packet_assembler.md R141, 45_link_rx.md R208, 46_link_tx.md R244: a bit that does not complete a
frame is placed at `bit_idx` of the byte under assembly, and the eighth stores the byte. As ASM.BIT in any
state, as RX.BIT in `GP`, as RB.BIT in `T_RB`, and as the symbol in either. -/
def Obligations.BitAppended : Prop :=
  ∀ (s : State) (b : Bool) (d : Nat) (i : Instr),
    (i = .asmBit b ∨
     (i = .rxBit b ∧ s.pins.role = .rx ∧ s.txState = .idle ∧ s.linkState = .gatheringPacket) ∨
     (i = .rbBit b ∧ s.pins.role = .tx ∧ s.txState = .readBack) ∨
     (((s.pins.role = .rx ∧ s.txState = .idle ∧ s.linkState = .gatheringPacket) ∨
        (s.pins.role = .tx ∧ s.txState = .readBack)) ∧
       ((b = true ∧ i = .one (.decoded d) ∧ classify s.cfg d = .one) ∨
        (b = false ∧ i = .zero (.decoded d) ∧ classify s.cfg d = .zero)))) →
    (s.bitIdx < 7 → s.byteIdx < frameLen s →
      exec i s = .next { s with
        curByte := s.curByte ||| ((if b then 1#8 else 0#8) <<< s.bitIdx), bitIdx := s.bitIdx + 1 }) ∧
    (s.bitIdx = 7 → s.byteIdx + 1 < frameLen s →
      exec i s = .next { s with
        pkt := putByte s.pkt s.byteIdx (s.curByte ||| ((if b then 1#8 else 0#8) <<< 7)),
        byteIdx := s.byteIdx + 1, bitIdx := 0, curByte := 0x00#8 })

/-- 41_packet_assembler.md R141, R143, 45_link_rx.md R208, R209, 46_link_tx.md R244, R246: the last bit of a
frame stores the last byte and completes the frame in the same step. As ASM.BIT, as RX.BIT in `GP`, as
RB.BIT in `T_RB`, and as the decoded symbol in either. -/
def Obligations.LastBitCompletesFrame : Prop :=
  ∀ (s : State) (b : Bool) (d : Nat) (i : Instr), s.bitIdx = 7 → s.byteIdx + 1 = frameLen s →
    (i = .asmBit b ∨
     (i = .rxBit b ∧ s.pins.role = .rx ∧ s.txState = .idle ∧ s.linkState = .gatheringPacket) ∨
     (i = .rbBit b ∧ s.pins.role = .tx ∧ s.txState = .readBack) ∨
     (((s.pins.role = .rx ∧ s.txState = .idle ∧ s.linkState = .gatheringPacket) ∨
        (s.pins.role = .tx ∧ s.txState = .readBack)) ∧
       ((b = true ∧ i = .one (.decoded d) ∧ classify s.cfg d = .one) ∨
        (b = false ∧ i = .zero (.decoded d) ∧ classify s.cfg d = .zero)))) →
    (s.pins.role = .rx →
      exec i s = exec (.packet .received) { s with
        pkt := putByte s.pkt s.byteIdx (s.curByte ||| ((if b then 1#8 else 0#8) <<< 7)),
        byteIdx := s.byteIdx + 1, bitIdx := 0, curByte := 0x00#8 }) ∧
    (s.pins.role = .tx → s.txState = .readBack →
      exec i s = exec (.burst .received) { s with
        pkt := putByte s.pkt s.byteIdx (s.curByte ||| ((if b then 1#8 else 0#8) <<< 7)),
        byteIdx := s.byteIdx + 1, bitIdx := 0, curByte := 0x00#8 })

/-- 20_memory.md R62, 41_packet_assembler.md R141: a received byte, bit 0 first, that does not complete a
frame lands in `pkt[byte_idx]`. -/
def Obligations.ReceivedByteIsStored : Prop :=
  ∀ (s : State) (v : Byte), s.bitIdx = 0 → s.curByte = 0x00#8 → s.byteIdx + 1 < frameLen s →
    exec (.byte (.received v)) s = .next { s with
      pkt := putByte s.pkt s.byteIdx v, byteIdx := s.byteIdx + 1 }

/-- 41_packet_assembler.md R143, R144, 45_link_rx.md R209, R216: completion of a packet in the receive role.
The ready gate, then the parity, then the delivery, then the reply burst if it is granted; the state is `AS`
after it. That `HOST_READY` seen, the gate of 44_arbitration_header.md R186, is this completion is the
model's reading (log entry 13). -/
def Obligations.PacketCompletion : Prop :=
  ∀ (s : State) (i : Instr), s.pins.role = .rx → s.byteIdx = s.cfg.pktLen →
    (i = .asmComplete ∨ i = .packet .received ∨ i = .hostReady .seen ∨
      (i = .rxDone ∧ s.txState = .idle ∧ s.linkState = .gatheringPacket)) →
    (bitOf (byteAt s.pkt 1) 7 = false →
      exec i s = .next { s with byteIdx := 0, linkState := .awaitingSync }) ∧
    (bitOf (byteAt s.pkt 1) 7 = true →
      byteAt s.pkt 12 ≠ xorFold ((s.pkt.toList.drop 2).take 10) →
      exec i s = .next { s with diag := s.diag ||| 0x01#8, byteIdx := 0,
                                linkState := .awaitingSync }) ∧
    (bitOf (byteAt s.pkt 1) 7 = true →
      byteAt s.pkt 12 = xorFold ((s.pkt.toList.drop 2).take 10) →
      (s.pins.replyEn = false ∨ bitOf (byteAt s.pkt 1) 4 = false ∨ s.qLen = 0 →
        exec i s = .next { s with
          hdrARx := byteAt s.pkt 0, peerFlags := byteAt s.pkt 1,
          rxPayload := bufOfList 10 ((s.pkt.toList.drop 2).take 10), rxValid := true,
          byteIdx := 0, linkState := .awaitingSync }) ∧
      (s.pins.replyEn = true → bitOf (byteAt s.pkt 1) 4 = true → 0 < s.qLen →
        exec i s = .next { s with
          hdrARx := byteAt s.pkt 0, peerFlags := byteAt s.pkt 1,
          rxPayload := bufOfList 10 ((s.pkt.toList.drop 2).take 10), rxValid := true,
          txbuf := pad10 (s.qBuf.toList.take s.qLen), qLen := 0,
          segs := waveBurst s.cfg (pad10 (s.qBuf.toList.take s.qLen)).toList,
          segRem := s.cfg.replyGapUs, txState := .play,
          byteIdx := 0, linkState := .awaitingSync }))

/-- 41_packet_assembler.md R143, 46_link_tx.md R246: completion of a read-back burst. The ready gate is not
applied. -/
def Obligations.BurstCompletion : Prop :=
  ∀ s : State, s.pins.role = .tx → s.txState = .readBack → s.byteIdx = s.cfg.burstLen →
    ∀ i ∈ [Instr.asmComplete, .burst .received, .rbDone],
      (byteAt s.pkt 10 ≠ xorFold (s.pkt.toList.take 10) →
        exec i s = .next { s with diag := s.diag ||| 0x01#8, byteIdx := 0, txState := .idle,
                                  idleCtr := 0 }) ∧
      (byteAt s.pkt 10 = xorFold (s.pkt.toList.take 10) →
        exec i s = .next { s with rxPayload := bufOfList 10 (s.pkt.toList.take 10), rxValid := true,
                                  byteIdx := 0, txState := .idle, idleCtr := 0 })

/-- 45_link_rx.md R211, 60_exceptions.md R326: the wait for an edge has lasted `END_MSG_TIMEOUT_US` in `RD`
or `GP`. There is no time-out in `AS`, and none before that. -/
def Obligations.ReceiverTimeout : Prop :=
  ∀ s : State, s.pins.role = .rx → s.txState = .idle →
    (s.linkState ≠ .awaitingSync → s.cfg.endMsgTimeoutUs ≤ s.tEdge →
      exec .rxTimeout s = .next { s with diag := s.diag ||| 0x04#8, bitIdx := 0, byteIdx := 0,
                                         curByte := 0x00#8, linkState := .awaitingSync }) ∧
    (s.linkState = .awaitingSync ∨ s.tEdge < s.cfg.endMsgTimeoutUs → exec .rxTimeout s = .next s)

/-- 46_link_tx.md R248: a step of the read-back in which no edge was reported and the wait has lasted
`END_MSG_TIMEOUT_US` ends it. -/
def Obligations.ReadBackTimeout : Prop :=
  ∀ s : State, s.pins.role = .tx → s.txState = .readBack → s.ephem = .edge .none →
    (s.cfg.endMsgTimeoutUs ≤ s.tEdge →
      receivePhase s = exec .rbTimeout s ∧
      exec .rbTimeout s = .next { s with diag := s.diag ||| 0x04#8, bitIdx := 0, byteIdx := 0,
                                         curByte := 0x00#8, txState := .idle, idleCtr := 0 }) ∧
    (s.tEdge < s.cfg.endMsgTimeoutUs → receivePhase s = .next s)

/-! ## Inject and reply -/

/-- 45_link_rx.md R213 to R215, R218: the arming of the inject, one tick of its wait, its sample, one tick
of its drive, its end; no arming and no tick while a burst plays. -/
def Obligations.InjectMachine : Prop :=
  ∀ (s : State) (line : Level), s.pins.role = .rx →
    (s.txState = .idle → s.linkState = .gatheringPacket → s.byteIdx = 0 → s.bitIdx = 0 →
      s.pins.injEn = true → s.outFlags ≠ 0x00#8 →
      exec (.rxInject .arm) s = .next { s with injState := .wait, injCtr := s.cfg.injectDelayUs }) ∧
    (s.txState ≠ .idle ∨ s.linkState ≠ .gatheringPacket ∨ s.byteIdx ≠ 0 ∨ s.bitIdx ≠ 0 ∨
      s.pins.injEn = false ∨ s.outFlags = 0x00#8 → exec (.rxInject .arm) s = .next s) ∧
    (s.txState = .idle →
      (s.injState = .off → exec (.rxInject (.tick line)) s = .next s) ∧
      (s.injState ≠ .off → 1 < s.injCtr →
        exec (.rxInject (.tick line)) s = .next { s with injCtr := s.injCtr - 1 }) ∧
      (s.injState = .wait → s.injCtr ≤ 1 →
        exec (.rxInject (.tick .low)) s =
          .next { s with injState := .drive, injCtr := s.cfg.injectUs } ∧
        exec (.rxInject (.tick .high)) s = .next { s with injState := .off }) ∧
      (s.injState = .drive → s.injCtr ≤ 1 →
        exec (.rxInject (.tick line)) s = .next { s with injState := .off })) ∧
    (s.txState ≠ .idle → exec (.rxInject (.tick line)) s = .next s)

/-- 45_link_rx.md R216, R217: the reply burst starts when an accepted packet grants it and something is
queued, and ends when its last segment has run; without the grant nothing happens and the queue stays. -/
def Obligations.ReplyBurst : Prop :=
  ∀ s : State, s.pins.role = .rx →
    (s.byteIdx = s.cfg.pktLen → bitOf (byteAt s.pkt 1) 7 = true →
      byteAt s.pkt 12 = xorFold ((s.pkt.toList.drop 2).take 10) →
      (s.pins.replyEn = true → bitOf (byteAt s.pkt 1) 4 = true → 0 < s.qLen →
        exec (.rxReply .start) s = .next { s with
          txbuf := pad10 (s.qBuf.toList.take s.qLen), qLen := 0,
          segs := waveBurst s.cfg (pad10 (s.qBuf.toList.take s.qLen)).toList,
          segRem := s.cfg.replyGapUs, txState := .play }) ∧
      (s.pins.replyEn = false ∨ bitOf (byteAt s.pkt 1) 4 = false ∨ s.qLen = 0 →
        exec (.rxReply .start) s = .next s)) ∧
    (s.txState = .play → s.segs = [] → exec (.rxReply .finish) s = .next { s with txState := .idle })

/-! ## Transmitted symbols, frames and the player -/

/-- 43_pulse_encoder.md R166 to R172: the waveforms of the three symbols and of an overlay cell; the
waveform of a byte is its eight cells, bit 0 first, and the idle gap; of a packet the reset waveform and
thirteen bytes; of a burst a released gap and eleven bytes. A gap of no ticks is no segment (the model's
choice, log entry 6). That a symbol or a frame in its sent form is an operation that plays its waveform, in
any state, is the model's reading (log entry 17). -/
def Obligations.WaveformsTransmitted : Prop :=
  (∀ (s : State) (i : Nat),
    exec (.one .transmitted) s = .next { s with
      segs := [.d0 s.cfg.sUs, .d1 s.cfg.lUs], segRem := s.cfg.sUs, txState := .play } ∧
    exec (.zero .transmitted) s = .next { s with
      segs := [.d0 s.cfg.sUs, .d0 s.cfg.lUs, .d1 s.cfg.high0Us], segRem := s.cfg.sUs,
      txState := .play } ∧
    exec (.zero (.overlay i)) s = .next { s with
      segs := [.d0 s.cfg.sUs, .zs s.cfg.lUs i (s.cfg.rbSampleUs - s.cfg.sUs), .d1 s.cfg.high0Us],
      segRem := s.cfg.sUs, txState := .play } ∧
    exec (.reset .transmitted) s = .next { s with
      segs := [.d0 s.cfg.resetTxLowUs, .d1 s.cfg.resetTxHighUs], segRem := s.cfg.resetTxLowUs,
      txState := .play }) ∧
  (∀ (cfg : Config) (v m : Byte), waveByte cfg v m =
    (List.range 8).flatMap (fun i =>
      if bitOf v i then [.d0 cfg.sUs, .d1 cfg.lUs]
      else if bitOf m i then
        [.d0 cfg.sUs, .zs cfg.lUs i (cfg.rbSampleUs - cfg.sUs), .d1 cfg.high0Us]
      else [.d0 cfg.sUs, .d0 cfg.lUs, .d1 cfg.high0Us]) ++
    (if cfg.idleUs = 0 then [] else [.d1 cfg.idleUs])) ∧
  (∀ (s : State) (v m : Byte),
    exec (.byte (.sent v m)) s = .next { s with
      segs := waveByte s.cfg v m, segRem := s.cfg.sUs, txState := .play }) ∧
  (∀ (s : State) (a f m : Byte) (p : List Byte),
    exec (.packet (.sent a f p m)) s = .next { s with
      segs := [.d0 s.cfg.resetTxLowUs, .d1 s.cfg.resetTxHighUs] ++ waveByte s.cfg a m ++
        waveByte s.cfg f 0x00#8 ++ p.flatMap (fun v => waveByte s.cfg v 0x00#8) ++
        waveByte s.cfg (xorFold p) 0x00#8,
      segRem := s.cfg.resetTxLowUs, txState := .play }) ∧
  (∀ (s : State) (p : List Byte),
    exec (.burst (.sent p)) s = .next { s with
      segs := [.z s.cfg.replyGapUs] ++ p.flatMap (fun v => waveByte s.cfg v 0x00#8) ++
        waveByte s.cfg (xorFold p) 0x00#8,
      segRem := s.cfg.replyGapUs, txState := .play })

/-- 43_pulse_encoder.md R175: the player counts the head segment down, goes to the next segment after its
last tick, and takes an overlay cell's sample at the tick the cell names, be it the cell's last. -/
def Obligations.PlayerStep : Prop :=
  ∀ (s : State) (line : Level) (g : Segment) (rest : List Segment), s.txState = .play →
    s.segs = g :: rest →
    ((∀ n i k, g ≠ .zs n i k) →
      (1 < s.segRem → exec (.playerStep line) s = .next { s with segRem := s.segRem - 1 }) ∧
      (∀ h tail, s.segRem = 1 → rest = h :: tail →
        exec (.playerStep line) s = .next { s with segs := h :: tail, segRem := h.length })) ∧
    (∀ n i k, g = .zs n i k → 1 < s.segRem →
      (n = k + s.segRem →
        exec (.playerStep line) s = .next { s with
          rbVec := setBitTo s.rbVec i (decide (line = .high)), segRem := s.segRem - 1 }) ∧
      (n ≠ k + s.segRem → exec (.playerStep line) s = .next { s with segRem := s.segRem - 1 })) ∧
    (∀ n i k h tail, g = .zs n i k → s.segRem = 1 → rest = h :: tail →
      (n = k + 1 →
        exec (.playerStep line) s = .next { s with
          rbVec := setBitTo s.rbVec i (decide (line = .high)), segs := h :: tail,
          segRem := h.length }) ∧
      (n ≠ k + 1 →
        exec (.playerStep line) s = .next { s with segs := h :: tail, segRem := h.length }))

/-- 43_pulse_encoder.md R175: a segment of length n is the head for exactly n player steps, whatever the
line. -/
def Obligations.SegmentRunsItsLength : Prop :=
  ∀ (s : State) (line : Level) (g h : Segment) (rest : List Segment), s.txState = .play →
    s.segs = g :: h :: rest → s.segRem = g.length → 1 ≤ g.length →
    (∀ j, j < g.length →
      (playTicks j line s).segs = g :: h :: rest ∧ (playTicks j line s).segRem = g.length - j ∧
      (playTicks j line s).txState = .play) ∧
    (playTicks g.length line s).segs = h :: rest ∧
    (playTicks g.length line s).segRem = h.length ∧ (playTicks g.length line s).txState = .play

/-- 43_pulse_encoder.md R175, 45_link_rx.md R217, 46_link_tx.md R234, R236 to R243: what the step that ends
a slot does. -/
def Obligations.SlotEndActions : Prop :=
  ∀ (s : State) (line : Level) (n : Nat), s.txState = .play → s.segs = [.d1 n] → s.segRem = 1 →
    (s.pins.role = .rx →
      exec (.playerStep line) s = .next { s with segs := [], txState := .idle }) ∧
    (s.pins.role = .tx →
      (s.txSlot = 0 → exec (.playerStep line) s = .next { s with
        segs := waveByte s.cfg s.hdrA (if s.pins.rbEn then 0xFF#8 else 0x00#8),
        segRem := s.cfg.sUs, txSlot := 1 }) ∧
      (s.txSlot = 1 → exec (.playerStep line) s = .next { s with
        peerFlags := (s.peerFlags &&& s.cfg.oneshotMask) ||| s.rbVec, txrSeen := bitOf s.rbVec 4,
        segs := waveByte s.cfg s.outFlags 0x00#8, segRem := s.cfg.sUs, txSlot := 2 }) ∧
      (s.txSlot = 2 → 0 < s.qLen → exec (.playerStep line) s = .next { s with
        txbuf := pad10 (s.qBuf.toList.take s.qLen), qLen := 0,
        segs := waveByte s.cfg (byteAt (pad10 (s.qBuf.toList.take s.qLen)) 0) 0x00#8,
        segRem := s.cfg.sUs, txSlot := 3 }) ∧
      (s.txSlot = 2 → s.qLen = 0 → exec (.playerStep line) s = .next { s with
        txbuf := Vector.replicate 10 0x00#8, segs := waveByte s.cfg 0x00#8 0x00#8,
        segRem := s.cfg.sUs, txSlot := 3 }) ∧
      (3 ≤ s.txSlot → s.txSlot ≤ 11 → exec (.playerStep line) s = .next { s with
        segs := waveByte s.cfg (byteAt s.txbuf (s.txSlot - 2)) 0x00#8, segRem := s.cfg.sUs,
        txSlot := s.txSlot + 1 }) ∧
      (s.txSlot = 12 → exec (.playerStep line) s = .next { s with
        segs := waveByte s.cfg (xorFold s.txbuf.toList) 0x00#8, segRem := s.cfg.sUs,
        txSlot := 13 }) ∧
      (s.txSlot = 13 → s.txrSeen = false → exec (.playerStep line) s = .next { s with
        segs := [], txState := .idle, txSlot := 0, idleCtr := 0 }) ∧
      (s.txSlot = 13 → s.txrSeen = true → exec (.playerStep line) s = .next { s with
        segs := [], txState := .readBack, txSlot := 0, bitIdx := 0, byteIdx := 0,
        curByte := 0x00#8 }))

/-! ## The transmit cycle -/

/-- 46_link_tx.md R232, R235: the cycle-start test of an idle transmitter, and the preamble of a cycle that
is due. -/
def Obligations.CycleStart : Prop :=
  ∀ s : State, s.pins.role = .tx → s.txState = .idle →
    (0 < s.qLen ∨ s.cfg.pollPeriodUs ≤ s.idleCtr →
      exec .txStart s = .next { s with
        rbVec := 0x00#8, txrSeen := false, txSlot := 0, idleCtr := 0,
        segs := [.d0 s.cfg.resetTxLowUs, .d1 s.cfg.resetTxHighUs],
        segRem := s.cfg.resetTxLowUs, txState := .play } ∧
      exec .txPreamble s = .next { s with
        txSlot := 0, segs := [.d0 s.cfg.resetTxLowUs, .d1 s.cfg.resetTxHighUs],
        segRem := s.cfg.resetTxLowUs, txState := .play }) ∧
    (s.qLen = 0 → s.idleCtr < s.cfg.pollPeriodUs →
      exec .txStart s = .next { s with idleCtr := min (s.idleCtr + 1) s.cfg.ctrMax } ∧
      exec .txPreamble s = .next s)

/-- 46_link_tx.md R236, R239, R240, R241: the events that load byte 0, byte 1, the payload bytes and the
parity byte, each when the slot before it has ended; when byte 1 ends the queued buffer, padded with zeros,
or ten zero bytes become the payload, and the queue is empty. -/
def Obligations.SlotsLoaded : Prop :=
  ∀ s : State, s.pins.role = .tx → s.txState = .play → s.segs = [] →
    (s.txSlot = 0 → exec .txHdra s = .next { s with
      segs := waveByte s.cfg s.hdrA (if s.pins.rbEn then 0xFF#8 else 0x00#8),
      segRem := s.cfg.sUs, txSlot := 1 }) ∧
    (s.txSlot = 1 → exec .txFlags s = .next { s with
      segs := waveByte s.cfg s.outFlags 0x00#8, segRem := s.cfg.sUs, txSlot := 2 }) ∧
    (s.txSlot = 2 → 0 < s.qLen → exec .txDequeue s = .next { s with
      txbuf := pad10 (s.qBuf.toList.take s.qLen), qLen := 0 }) ∧
    (s.txSlot = 2 → s.qLen = 0 → exec .txDequeue s = .next { s with
      txbuf := Vector.replicate 10 0x00#8 }) ∧
    (2 ≤ s.txSlot → s.txSlot ≤ 11 → exec .txPayload s = .next { s with
      segs := waveByte s.cfg (byteAt s.txbuf (s.txSlot - 2)) 0x00#8, segRem := s.cfg.sUs,
      txSlot := s.txSlot + 1 }) ∧
    (s.txSlot = 12 → exec .txParity s = .next { s with
      segs := waveByte s.cfg (xorFold s.txbuf.toList) 0x00#8, segRem := s.cfg.sUs, txSlot := 13 })

/-- 46_link_tx.md R237, R238: the sample of an overlay cell, and the fold of the overlay vector when byte 0
ends: one-shot bits stay, every other bit follows the vector. -/
def Obligations.OverlaySampleAndFold : Prop :=
  ∀ s : State, s.txState = .play →
    (∀ (line : Level) (n i k : Nat) (rest : List Segment), s.segs = .zs n i k :: rest →
      (n = k + s.segRem → exec (.txOverlay line) s = .next { s with
        rbVec := setBitTo s.rbVec i (decide (line = .high)) }) ∧
      (n ≠ k + s.segRem → exec (.txOverlay line) s = .next s)) ∧
    (s.pins.role = .tx → s.segs = [] → s.txSlot = 1 →
      exec .txFold s = .next { s with
        peerFlags := (s.peerFlags &&& s.cfg.oneshotMask) ||| s.rbVec, txrSeen := bitOf s.rbVec 4 })

/-- 46_link_tx.md R242, R243: the end of a cycle, with and without a read-back; the line is released after
it. -/
def Obligations.CycleEnd : Prop :=
  ∀ s : State, s.pins.role = .tx → s.txState = .play → s.segs = [] → s.txSlot = 13 →
    s.injState ≠ .drive →
    (s.txrSeen = false →
      exec .txEnd s = .next { s with txState := .idle, txSlot := 0, idleCtr := 0 } ∧
      lineOe { s with txState := .idle, txSlot := 0, idleCtr := 0 } = false) ∧
    (s.txrSeen = true →
      exec .rbEnter s = .next { s with txState := .readBack, txSlot := 0, bitIdx := 0, byteIdx := 0,
                                       curByte := 0x00#8 } ∧
      lineOe { s with txState := .readBack, txSlot := 0, bitIdx := 0, byteIdx := 0,
                      curByte := 0x00#8 } = false)

/-! ## Host commands -/

/-- 47_host_commands.md R266, R269, R271, R272: HNOP; SETF, which sets the bits that the role owns and drops
the others without a refusal; WRA; CLRD. -/
def Obligations.HnopSetfWraClrd : Prop :=
  ∀ (s : State) (v : Byte),
    exec .hnop s = .next { s with cmdOk := true, cmdResult := false } ∧
    (s.pins.role = .tx → exec (.setf v) s = .next { s with
      outFlags := s.outFlags ||| (v &&& s.cfg.hostOwnMask), cmdOk := true, cmdResult := false }) ∧
    (s.pins.role = .rx → exec (.setf v) s = .next { s with
      outFlags := s.outFlags ||| (v &&& s.cfg.remoteOwnMask), cmdOk := true, cmdResult := false }) ∧
    exec (.wra v) s = .next { s with hdrA := v, cmdOk := true, cmdResult := false } ∧
    exec (.clrd v) s = .next { s with diag := s.diag &&& ~~~v, cmdOk := true, cmdResult := false }

/-- 47_host_commands.md R273: the reserved code is refused and changes nothing. -/
def Obligations.ReservedCommandRefused : Prop :=
  ∀ s : State, exec .hostopReserved7 s = .next { s with cmdOk := false, cmdResult := false }

/-- 47_host_commands.md R267: SEND takes a buffer of 1 to 10 bytes while the queue is empty, pads it with
zeros, and is otherwise refused with nothing changed. -/
def Obligations.SendEnqueues : Prop :=
  ∀ (s : State) (len : Nat) (data : List Byte),
    (s.qLen = 0 → 1 ≤ len → len ≤ 10 →
      exec (.send len data) s = .next { s with
        qBuf := pad10 (data.take len), qLen := len, cmdOk := true, cmdResult := false }) ∧
    (s.qLen ≠ 0 ∨ len = 0 ∨ 10 < len →
      exec (.send len data) s = .next { s with cmdOk := false, cmdResult := false })

/-- 47_host_commands.md R268: TAKE answers one bit of `peer_flags`, named by the low three bits of its
operand, and clears it in the same step; a second TAKE of the bit answers 0. 49_text_chunker_boundary.md
R307: in the transmit role `TAKE 1` with answer 1 is an opportunity of the chunker (noted in `textReady`,
log entry 22). -/
def Obligations.TakeReturnsAndClears : Prop :=
  ∀ (s : State) (arg : Byte),
    exec (.take arg) s = .next { s with
      peerFlags := setBitTo s.peerFlags (arg.toNat % 8) false, cmdOk := true,
      cmdResult := bitOf s.peerFlags (arg.toNat % 8),
      textReady := s.textReady || (decide (s.pins.role = .tx) && decide (arg.toNat % 8 = 1) &&
        bitOf s.peerFlags (arg.toNat % 8)) } ∧
    ∃ t, andThen (exec (.take arg) s) (exec (.take arg)) = .next t ∧ t.cmdResult = false ∧
      t.peerFlags = setBitTo s.peerFlags (arg.toNat % 8) false

/-- 47_host_commands.md R270: CLRF clears any bit, and the worked example. -/
def Obligations.ClrfClearsBits : Prop :=
  (∀ (s : State) (m : Byte), exec (.clrf m) s = .next { s with
    outFlags := s.outFlags &&& ~~~m, cmdOk := true, cmdResult := false }) ∧
  (∀ s : State, s.outFlags = 0x90#8 → exec (.clrf 0x10#8) s = .next { s with
    outFlags := 0x80#8, cmdOk := true, cmdResult := false })

/-! ## Header flags -/

/-- 44_arbitration_header.md R186 to R196, 47_host_commands.md R268 to R270: a flag is set and cleared by
its owner's host and taken by the other party's host, each with the command's answer; in the other role the
request changes no flag (the reading of a flag as an operation is log entry 13). `READY_FOR_TEXT` taken with
answer 1 is an opportunity of the chunker (49_text_chunker_boundary.md R307; log entry 22). -/
def Obligations.FlagsSetClearedTaken : Prop :=
  ∀ s : State,
    (∀ r ∈ hostFlagRows,
      (s.pins.role = .tx →
        exec (r.2 .set) s = .next { s with
          outFlags := s.outFlags ||| ((1#8 <<< r.1) &&& s.cfg.hostOwnMask), cmdOk := true,
          cmdResult := false } ∧
        exec (r.2 .clear) s = .next { s with
          outFlags := s.outFlags &&& ~~~(1#8 <<< r.1), cmdOk := true, cmdResult := false } ∧
        exec (r.2 .take) s = .next { s with cmdOk := true, cmdResult := false }) ∧
      (s.pins.role = .rx →
        exec (r.2 .set) s = .next { s with cmdOk := true, cmdResult := false } ∧
        exec (r.2 .clear) s = .next { s with cmdOk := true, cmdResult := false } ∧
        exec (r.2 .take) s = .next { s with
          peerFlags := setBitTo s.peerFlags r.1 false, cmdOk := true,
          cmdResult := bitOf s.peerFlags r.1 })) ∧
    (∀ r ∈ remoteFlagRows,
      (s.pins.role = .rx →
        exec (r.2 .set) s = .next { s with
          outFlags := s.outFlags ||| ((1#8 <<< r.1) &&& s.cfg.remoteOwnMask), cmdOk := true,
          cmdResult := false } ∧
        exec (r.2 .clear) s = .next { s with
          outFlags := s.outFlags &&& ~~~(1#8 <<< r.1), cmdOk := true, cmdResult := false } ∧
        exec (r.2 .take) s = .next { s with cmdOk := true, cmdResult := false }) ∧
      (s.pins.role = .tx →
        exec (r.2 .set) s = .next { s with cmdOk := true, cmdResult := false } ∧
        exec (r.2 .clear) s = .next { s with cmdOk := true, cmdResult := false } ∧
        exec (r.2 .take) s = .next { s with
          peerFlags := setBitTo s.peerFlags r.1 false, cmdOk := true,
          cmdResult := bitOf s.peerFlags r.1,
          textReady := s.textReady || (decide (r.1 = 1) && bitOf s.peerFlags r.1) }))

/-- 44_arbitration_header.md R187 to R189, 41_packet_assembler.md R144: in an accepted packet `DATA_AVAIL`
and `ERROR` are shown in `peer_flags` and nothing else happens; `BUS_AVAIL` is shown and grants the reply
burst. A flag seen as an operation that shows its one bit is the model's reading (log entry 13). -/
def Obligations.HostFlagsSeen : Prop :=
  ∀ s : State, s.pins.role = .rx → s.byteIdx = s.cfg.pktLen → bitOf (byteAt s.pkt 1) 7 = true →
    byteAt s.pkt 12 = xorFold ((s.pkt.toList.drop 2).take 10) →
    exec (.dataAvail .seen) s = .next { s with
      peerFlags := setBitTo s.peerFlags 0 (bitOf (byteAt s.pkt 1) 0) } ∧
    exec (.errorHost .seen) s = .next { s with
      peerFlags := setBitTo s.peerFlags 6 (bitOf (byteAt s.pkt 1) 6) } ∧
    (s.pins.replyEn = false ∨ bitOf (byteAt s.pkt 1) 4 = false ∨ s.qLen = 0 →
      exec (.busAvail .seen) s = .next { s with
        peerFlags := setBitTo s.peerFlags 4 (bitOf (byteAt s.pkt 1) 4) }) ∧
    (s.pins.replyEn = true → bitOf (byteAt s.pkt 1) 4 = true → 0 < s.qLen →
      exec (.busAvail .seen) s = .next { s with
        peerFlags := setBitTo s.peerFlags 4 true,
        txbuf := pad10 (s.qBuf.toList.take s.qLen), qLen := 0,
        segs := waveBurst s.cfg (pad10 (s.qBuf.toList.take s.qLen)).toList,
        segRem := s.cfg.replyGapUs, txState := .play })

/-- 44_arbitration_header.md R190 to R194, 46_link_tx.md R238: when byte 0 ends, a remote flag's bit of
`peer_flags` follows the overlay vector, a one-shot bit staying set; `TX_READY` also decides whether the
cycle ends with a read-back. A flag seen as an operation that folds its one bit is the model's reading (log
entry 13). -/
def Obligations.RemoteFlagsSeen : Prop :=
  ∀ s : State, s.pins.role = .tx → s.txState = .play → s.segs = [] → s.txSlot = 1 →
    (∀ r ∈ [((1, .readyForText) : Nat × (FlagForm → Instr)), (2, .timerRequest), (6, .errorRemote),
            (7, .isInit)],
      exec (r.2 .seen) s = .next { s with
        peerFlags := setBitTo s.peerFlags r.1
          (bitOf ((s.peerFlags &&& s.cfg.oneshotMask) ||| s.rbVec) r.1) }) ∧
    exec (.txReady .seen) s = .next { s with
      peerFlags := setBitTo s.peerFlags 4
        (bitOf ((s.peerFlags &&& s.cfg.oneshotMask) ||| s.rbVec) 4),
      txrSeen := bitOf s.rbVec 4 }

/-- 44_arbitration_header.md R185, R197, R198: the decoded view of a flag byte under the vocabulary that the
role selects, and the published byte. The rules give views and a byte; that they stand in the field `ephem`
until the tick ends is the model's choice (log entry 11). -/
def Obligations.HeaderDecodeAndEncode : Prop :=
  ∀ s : State,
    (s.pins.role = .tx →
      exec (.hdrDecode .ownFlags) s = .next { s with
        ephem := .hostHeader
          ⟨bitOf s.outFlags 0, bitOf s.outFlags 4, bitOf s.outFlags 6, bitOf s.outFlags 7⟩ } ∧
      exec (.hdrDecode .peerFlags) s = .next { s with
        ephem := .remoteHeader
          ⟨bitOf s.peerFlags 1, bitOf s.peerFlags 2, bitOf s.peerFlags 4, bitOf s.peerFlags 6,
            bitOf s.peerFlags 7⟩ } ∧
      exec (.hdrDecode .overlayVector) s = .next { s with
        ephem := .remoteHeader
          ⟨bitOf s.rbVec 1, bitOf s.rbVec 2, bitOf s.rbVec 4, bitOf s.rbVec 6, bitOf s.rbVec 7⟩ }) ∧
    (s.pins.role = .rx →
      exec (.hdrDecode .ownFlags) s = .next { s with
        ephem := .remoteHeader
          ⟨bitOf s.outFlags 1, bitOf s.outFlags 2, bitOf s.outFlags 4, bitOf s.outFlags 6,
          bitOf s.outFlags 7⟩ } ∧
      exec (.hdrDecode .peerFlags) s = .next { s with
        ephem := .hostHeader
          ⟨bitOf s.peerFlags 0, bitOf s.peerFlags 4, bitOf s.peerFlags 6, bitOf s.peerFlags 7⟩ } ∧
      exec (.hdrDecode .packetByte) s = .next { s with
        ephem := .hostHeader
          ⟨bitOf (byteAt s.pkt 1) 0, bitOf (byteAt s.pkt 1) 4, bitOf (byteAt s.pkt 1) 6,
          bitOf (byteAt s.pkt 1) 7⟩ }) ∧
    exec .hdrEncode s = .next { s with ephem := .byte s.outFlags }

/-! ## Command ids and text -/

/-- 48_command_vocabulary.md R284, 47_host_commands.md R267: for each of the sixteen ids, asking for its
command enqueues the id and its nine data bytes while the queue is empty, and is otherwise refused (the
three legs of a command are log entry 12). -/
def Obligations.CommandEnqueued : Prop :=
  ∀ (s : State) (data : List Byte), data.length = 9 → ∀ r ∈ commandRows,
    (s.qLen = 0 → exec (r.2 .enqueue data) s = .next { s with
      qBuf := pad10 (r.1 :: data), qLen := 10, cmdOk := true, cmdResult := false }) ∧
    (s.qLen ≠ 0 → exec (r.2 .enqueue data) s = .next { s with cmdOk := false, cmdResult := false })

/-- 48_command_vocabulary.md R284, 46_link_tx.md R240, 45_link_rx.md R216: for each of the sixteen ids, a
queue that holds exactly this command and its data is copied to `txbuf` unchanged when byte 1 of a cycle
ends, and in the receive role when an accepted packet grants the reply (log entry 12). -/
def Obligations.CommandSent : Prop :=
  ∀ (s : State) (data : List Byte), data.length = 9 → ∀ r ∈ commandRows, 0 < s.qLen →
    (pad10 (s.qBuf.toList.take s.qLen)).toList = r.1 :: data →
    (s.pins.role = .tx → s.txState = .play → s.segs = [] → s.txSlot = 2 →
      exec (r.2 .send data) s = .next { s with txbuf := pad10 (r.1 :: data), qLen := 0 }) ∧
    (s.pins.role = .rx → s.byteIdx = s.cfg.pktLen → bitOf (byteAt s.pkt 1) 7 = true →
      byteAt s.pkt 12 = xorFold ((s.pkt.toList.drop 2).take 10) → s.pins.replyEn = true →
      bitOf (byteAt s.pkt 1) 4 = true →
      exec (r.2 .send data) s = .next { s with
        txbuf := pad10 (r.1 :: data), qLen := 0, segs := waveBurst s.cfg (r.1 :: data),
        segRem := s.cfg.replyGapUs, txState := .play })

/-- 48_command_vocabulary.md R284, 41_packet_assembler.md R144, 46_link_tx.md R246: for each of the sixteen
ids, a completed frame that holds exactly this command and its data delivers them unchanged; in the receive
role the outcome is that of the packet's completion (log entry 12). -/
def Obligations.CommandDelivered : Prop :=
  ∀ (s : State) (data : List Byte), ∀ r ∈ commandRows,
    (s.pins.role = .rx → s.byteIdx = s.cfg.pktLen →
      (s.pkt.toList.drop 2).take 10 = r.1 :: data →
      exec (r.2 .deliver data) s = exec (.packet .received) s ∧
      (bitOf (byteAt s.pkt 1) 7 = true → byteAt s.pkt 12 = xorFold (r.1 :: data) →
        s.pins.replyEn = false →
        exec (r.2 .deliver data) s = .next { s with
          hdrARx := byteAt s.pkt 0, peerFlags := byteAt s.pkt 1,
          rxPayload := bufOfList 10 (r.1 :: data), rxValid := true, byteIdx := 0,
          linkState := .awaitingSync })) ∧
    (s.pins.role = .tx → s.txState = .readBack → s.byteIdx = s.cfg.burstLen →
      s.pkt.toList.take 10 = r.1 :: data → byteAt s.pkt 10 = xorFold (r.1 :: data) →
      exec (r.2 .deliver data) s = .next { s with
        rxPayload := bufOfList 10 (r.1 :: data), rxValid := true, byteIdx := 0, txState := .idle,
        idleCtr := 0 })

/-- 49_text_chunker_boundary.md R305 to R308, R310, 48_command_vocabulary.md R297: CHUNK.NEXT, one
opportunity of an open session in the transmit role, hands the next fragment to SEND and moves the cursor; a
refused SEND leaves the session. Either way the opportunity is used up, and without one, without a session
or in the receive role nothing happens (log entry 22). The payload is the id 0xC8 and, in an order that is
free, the fragment, its tag and at most one byte more (log entry 14). The flag returned on a refused SEND is
free (log entry 23). -/
def Obligations.NextFragmentIsSent : Prop :=
  (∀ (s : State) (tag : ChunkTag) (chunk payload : List Byte), s.pins.role = .tx →
    s.text.active = true → s.textReady = true → payload = textPayload s.text tag chunk →
    (s.text.text.length - s.text.cursor ≤ s.cfg.chunkLen → tag = .finish ∧
      chunk = s.text.text.drop s.text.cursor ++
        List.replicate (s.cfg.chunkLen - (s.text.text.length - s.text.cursor))
          s.cfg.textEndMark) →
    (s.cfg.chunkLen < s.text.text.length - s.text.cursor → tag = .append ∧
      chunk = (s.text.text.drop s.text.cursor).take s.cfg.chunkLen) →
    (s.qLen = 0 → payload.length ≤ 10 →
      exec .chunkNext s = .next { s with
        qBuf := pad10 payload, qLen := payload.length, cmdOk := true, cmdResult := false,
        text := (if tag = .finish then { s.text with cursor := 0, active := false }
          else { s.text with cursor := s.text.cursor + s.cfg.chunkLen }),
        textReady := false, ephem := .chunkDone (decide (tag = .finish)) }) ∧
    (s.qLen ≠ 0 ∨ 10 < payload.length →
      exec .chunkNext s = .next { s with
        cmdOk := false, cmdResult := false, textReady := false,
        ephem := .chunkDone (Config.refusedChunkDone s.text.text s.text.cursor) })) ∧
  (∀ s : State, s.pins.role = .rx ∨ s.text.active = false ∨ s.textReady = false →
    exec .chunkNext s = .next s) ∧
  (∀ (session : TextSession) (tag : ChunkTag) (chunk : List Byte),
    (chunk.length = 7 → (textPayload session tag chunk).length ≤ 10) ∧
    ∃ items spare, textPayload session tag chunk = 0xC8#8 :: items ∧ spare.length ≤ 1 ∧
      items.Perm (chunk ++ chunkTagByte tag :: spare)) ∧
  chunkTagByte .append ≠ chunkTagByte .finish

/-- 49_text_chunker_boundary.md R309, the count half: a string is cut into `ceil(L / 7)` fragments of seven
bytes (`CHUNK_LEN`), whose bytes in order are the string followed by end marks, the last and only the last
tagged as the end. -/
def Obligations.FragmentsAreTheText : Prop :=
  ∀ (cfg : Config) (text : List Byte) (fuel : Nat), 1 ≤ cfg.chunkLen → text ≠ [] →
    text.length ≤ fuel →
    (fragments cfg fuel ⟨text, 0, true⟩).length = (text.length + cfg.chunkLen - 1) / cfg.chunkLen ∧
    (∀ f ∈ fragments cfg fuel ⟨text, 0, true⟩, f.2.length = cfg.chunkLen) ∧
    (∃ n, (fragments cfg fuel ⟨text, 0, true⟩).flatMap (fun f => f.2) =
      text ++ List.replicate n cfg.textEndMark) ∧
    (∃ front last, fragments cfg fuel ⟨text, 0, true⟩ = front ++ [last] ∧ last.1 = .finish ∧
      ∀ f ∈ front, f.1 = .append)

/-! ## The whole machine -/

/-- 42_parity.md R158: for every payload of ten bytes, reading back the waveform of the burst gives the
payload and its fold, and reading back the waveform of the packet gives a link reset, the two header bytes,
the payload and its fold. -/
def Obligations.PayloadRoundTrip : Prop :=
  ∀ (cfg : Config) (a f : Byte) (p : List Byte), cfg.wellFormed → p.length = 10 →
    bytesOfSymbols (waveSymbols cfg (waveBurst cfg p)) = p ++ [xorFold p] ∧
    ∃ bits, waveSymbols cfg (wavePacket cfg a f p 0x00#8) = .reset :: bits ∧
      bytesOfSymbols bits = [a, f] ++ p ++ [xorFold p]

/-- 41_packet_assembler.md R141 to R144, 45_link_rx.md R208, R209, 20_memory.md R62 to R64: the 104 bit
symbols of a packet, performed one after another by a receiver at the start of a frame, deliver its payload,
its two header bytes and nothing else, whatever LOW times of each window carry the bits. -/
def Obligations.SymbolsDeliverPacket : Prop :=
  ∀ (s : State) (a f : Byte) (p : List Byte) (d1 d0 : Nat),
    s.pins.role = .rx → s.txState = .idle → s.linkState = .gatheringPacket → s.bitIdx = 0 →
    s.byteIdx = 0 → s.curByte = 0x00#8 → s.cfg.pktLen = 13 → s.pins.replyEn = false →
    classify s.cfg d1 = .one → classify s.cfg d0 = .zero → p.length = 10 → bitOf f 7 = true →
    execAll ((([a, f] ++ p ++ [xorFold p]).flatMap byteBits).map (bitInstr d1 d0)) s =
      .next { s with
        pkt := bufOfList 13 ([a, f] ++ p ++ [xorFold p]), hdrARx := a, peerFlags := f,
        rxPayload := bufOfList 10 p, rxValid := true, linkState := .awaitingSync }

/-- 10_state.md R40: with `INJ_EN` and `REPLY_EN` at 0 the receive role never drives the line. -/
def Obligations.QuietReceiverNeverDrives : Prop :=
  ∀ s t : State, s.pins.role = .rx → s.pins.injEn = false → s.pins.replyEn = false →
    s.txState = .idle → s.injState = .off → (nextInput s).rst = false → step s = .next t →
    t.pins = s.pins ∧ t.txState = .idle ∧ t.injState = .off ∧ lineOe t = false

/-- 10_state.md R33, R35, R38: with a silent host and no hardware reset, a step changes neither `out_flags`
nor `hdr_a`, and no `diag` bit falls. -/
def Obligations.EngineKeepsHostRegisters : Prop :=
  ∀ s t : State, hostSilent s → (nextInput s).rst = false → step s = .next t →
    t.outFlags = s.outFlags ∧ t.hdrA = s.hdrA ∧ t.diag &&& s.diag = s.diag

/-- 10_state.md R32, 70_reset_and_hazards.md R361: `rx_valid` is 1 only after a tick that saw a rising edge.
-/
def Obligations.DeliveryNeedsRisingEdge : Prop :=
  ∀ (s t : State) (line : Level), plainTick line s → step s = .next t → t.rxValid = true →
    s.prevLevel = .low ∧ line = .high ∧ t.tEdge = 1

/-- 45_link_rx.md R211, R212: from `RD` or `GP`, a line that stays at its level brings the receiver back to
`AS` within `END_MSG_TIMEOUT_US` ticks, with the time-out marked. -/
def Obligations.SilentLineEndsFrame : Prop :=
  ∀ s : State, Invariant s → s.pins.role = .rx → s.linkState ≠ .awaitingSync →
    s.trace = heldLine s.cfg.endMsgTimeoutUs s.prevLevel →
    ∃ n t, 1 ≤ n ∧ n ≤ s.cfg.endMsgTimeoutUs ∧ steps n s = .next t ∧
      t.linkState = .awaitingSync ∧ t.bitIdx = 0 ∧ t.byteIdx = 0 ∧ bitOf t.diag 2 = true

/-- 46_link_tx.md R232: an idle transmitter with nothing queued and no further input (the quiet ticks after
the listed ones, the model's choice, log entry 2) counts to `POLL_PERIOD_US` and starts the next cycle in
the step after; from hardware reset that is the step of tick 32000 with the defaults. -/
def Obligations.CycleStartsAfterPollPeriod : Prop :=
  ∀ s : State, Invariant s → s.pins.role = .tx → s.txState = .idle → s.qLen = 0 → s.trace = [] →
    s.idleCtr ≤ s.cfg.pollPeriodUs →
    ∃ t u, steps (s.cfg.pollPeriodUs - s.idleCtr) s = .next t ∧ t.txState = .idle ∧
      t.idleCtr = s.cfg.pollPeriodUs ∧ step t = .next u ∧ u.txState = .play ∧ u.txSlot = 0 ∧
      u.segs = [.d0 s.cfg.resetTxLowUs, .d1 s.cfg.resetTxHighUs] ∧ lineDrive u = .low
end

