-- ==== Sys2Proof/Laws/State.lean ====
section
/-! SUPPORT. One lemma per field per unconditional update of the state, each true by unfolding, so that no
later proof unfolds a record update. -/

namespace Sys2Proof.Machine

open Sys2Proof

variable (s : State)

/-! ### `respond` -/

@[simp] theorem respond_prevLevel (ok result : Bool) :
    (respond ok result s).prevLevel = s.prevLevel := rfl
@[simp] theorem respond_tEdge (ok result : Bool) : (respond ok result s).tEdge = s.tEdge := rfl
@[simp] theorem respond_linkState (ok result : Bool) :
    (respond ok result s).linkState = s.linkState := rfl
@[simp] theorem respond_bitIdx (ok result : Bool) : (respond ok result s).bitIdx = s.bitIdx := rfl
@[simp] theorem respond_byteIdx (ok result : Bool) :
    (respond ok result s).byteIdx = s.byteIdx := rfl
@[simp] theorem respond_curByte (ok result : Bool) :
    (respond ok result s).curByte = s.curByte := rfl
@[simp] theorem respond_pkt (ok result : Bool) : (respond ok result s).pkt = s.pkt := rfl
@[simp] theorem respond_qBuf (ok result : Bool) : (respond ok result s).qBuf = s.qBuf := rfl
@[simp] theorem respond_qLen (ok result : Bool) : (respond ok result s).qLen = s.qLen := rfl
@[simp] theorem respond_txbuf (ok result : Bool) : (respond ok result s).txbuf = s.txbuf := rfl
@[simp] theorem respond_rxPayload (ok result : Bool) :
    (respond ok result s).rxPayload = s.rxPayload := rfl
@[simp] theorem respond_rxValid (ok result : Bool) :
    (respond ok result s).rxValid = s.rxValid := rfl
@[simp] theorem respond_outFlags (ok result : Bool) :
    (respond ok result s).outFlags = s.outFlags := rfl
@[simp] theorem respond_peerFlags (ok result : Bool) :
    (respond ok result s).peerFlags = s.peerFlags := rfl
@[simp] theorem respond_hdrA (ok result : Bool) : (respond ok result s).hdrA = s.hdrA := rfl
@[simp] theorem respond_hdrARx (ok result : Bool) : (respond ok result s).hdrARx = s.hdrARx := rfl
@[simp] theorem respond_rbVec (ok result : Bool) : (respond ok result s).rbVec = s.rbVec := rfl
@[simp] theorem respond_diag (ok result : Bool) : (respond ok result s).diag = s.diag := rfl
@[simp] theorem respond_cmdOk (ok result : Bool) : (respond ok result s).cmdOk = ok := rfl
@[simp] theorem respond_cmdResult (ok result : Bool) :
    (respond ok result s).cmdResult = result := rfl
@[simp] theorem respond_txState (ok result : Bool) :
    (respond ok result s).txState = s.txState := rfl
@[simp] theorem respond_txSlot (ok result : Bool) : (respond ok result s).txSlot = s.txSlot := rfl
@[simp] theorem respond_txrSeen (ok result : Bool) :
    (respond ok result s).txrSeen = s.txrSeen := rfl
@[simp] theorem respond_idleCtr (ok result : Bool) :
    (respond ok result s).idleCtr = s.idleCtr := rfl
@[simp] theorem respond_segs (ok result : Bool) : (respond ok result s).segs = s.segs := rfl
@[simp] theorem respond_segRem (ok result : Bool) : (respond ok result s).segRem = s.segRem := rfl
@[simp] theorem respond_injState (ok result : Bool) :
    (respond ok result s).injState = s.injState := rfl
@[simp] theorem respond_injCtr (ok result : Bool) : (respond ok result s).injCtr = s.injCtr := rfl
@[simp] theorem respond_cfg (ok result : Bool) : (respond ok result s).cfg = s.cfg := rfl
@[simp] theorem respond_pins (ok result : Bool) : (respond ok result s).pins = s.pins := rfl
@[simp] theorem respond_trace (ok result : Bool) : (respond ok result s).trace = s.trace := rfl
@[simp] theorem respond_net (ok result : Bool) : (respond ok result s).net = s.net := rfl
@[simp] theorem respond_text (ok result : Bool) : (respond ok result s).text = s.text := rfl
@[simp] theorem respond_textReady (ok result : Bool) :
    (respond ok result s).textReady = s.textReady := rfl
@[simp] theorem respond_ephem (ok result : Bool) : (respond ok result s).ephem = s.ephem := rfl

/-! ### `clearPulses` -/

@[simp] theorem clearPulses_prevLevel : (clearPulses s).prevLevel = s.prevLevel := rfl
@[simp] theorem clearPulses_tEdge : (clearPulses s).tEdge = s.tEdge := rfl
@[simp] theorem clearPulses_linkState : (clearPulses s).linkState = s.linkState := rfl
@[simp] theorem clearPulses_bitIdx : (clearPulses s).bitIdx = s.bitIdx := rfl
@[simp] theorem clearPulses_byteIdx : (clearPulses s).byteIdx = s.byteIdx := rfl
@[simp] theorem clearPulses_curByte : (clearPulses s).curByte = s.curByte := rfl
@[simp] theorem clearPulses_pkt : (clearPulses s).pkt = s.pkt := rfl
@[simp] theorem clearPulses_qBuf : (clearPulses s).qBuf = s.qBuf := rfl
@[simp] theorem clearPulses_qLen : (clearPulses s).qLen = s.qLen := rfl
@[simp] theorem clearPulses_txbuf : (clearPulses s).txbuf = s.txbuf := rfl
@[simp] theorem clearPulses_rxPayload : (clearPulses s).rxPayload = s.rxPayload := rfl
@[simp] theorem clearPulses_rxValid : (clearPulses s).rxValid = false := rfl
@[simp] theorem clearPulses_outFlags : (clearPulses s).outFlags = s.outFlags := rfl
@[simp] theorem clearPulses_peerFlags : (clearPulses s).peerFlags = s.peerFlags := rfl
@[simp] theorem clearPulses_hdrA : (clearPulses s).hdrA = s.hdrA := rfl
@[simp] theorem clearPulses_hdrARx : (clearPulses s).hdrARx = s.hdrARx := rfl
@[simp] theorem clearPulses_rbVec : (clearPulses s).rbVec = s.rbVec := rfl
@[simp] theorem clearPulses_diag : (clearPulses s).diag = s.diag := rfl
@[simp] theorem clearPulses_cmdOk : (clearPulses s).cmdOk = false := rfl
@[simp] theorem clearPulses_cmdResult : (clearPulses s).cmdResult = false := rfl
@[simp] theorem clearPulses_txState : (clearPulses s).txState = s.txState := rfl
@[simp] theorem clearPulses_txSlot : (clearPulses s).txSlot = s.txSlot := rfl
@[simp] theorem clearPulses_txrSeen : (clearPulses s).txrSeen = s.txrSeen := rfl
@[simp] theorem clearPulses_idleCtr : (clearPulses s).idleCtr = s.idleCtr := rfl
@[simp] theorem clearPulses_segs : (clearPulses s).segs = s.segs := rfl
@[simp] theorem clearPulses_segRem : (clearPulses s).segRem = s.segRem := rfl
@[simp] theorem clearPulses_injState : (clearPulses s).injState = s.injState := rfl
@[simp] theorem clearPulses_injCtr : (clearPulses s).injCtr = s.injCtr := rfl
@[simp] theorem clearPulses_cfg : (clearPulses s).cfg = s.cfg := rfl
@[simp] theorem clearPulses_pins : (clearPulses s).pins = s.pins := rfl
@[simp] theorem clearPulses_trace : (clearPulses s).trace = s.trace := rfl
@[simp] theorem clearPulses_net : (clearPulses s).net = s.net := rfl
@[simp] theorem clearPulses_text : (clearPulses s).text = s.text := rfl
@[simp] theorem clearPulses_textReady : (clearPulses s).textReady = s.textReady := rfl
@[simp] theorem clearPulses_ephem : (clearPulses s).ephem = s.ephem := rfl

/-! ### `setFlags` -/

@[simp] theorem setFlags_prevLevel (m : Byte) : (setFlags m s).prevLevel = s.prevLevel := rfl
@[simp] theorem setFlags_tEdge (m : Byte) : (setFlags m s).tEdge = s.tEdge := rfl
@[simp] theorem setFlags_linkState (m : Byte) : (setFlags m s).linkState = s.linkState := rfl
@[simp] theorem setFlags_bitIdx (m : Byte) : (setFlags m s).bitIdx = s.bitIdx := rfl
@[simp] theorem setFlags_byteIdx (m : Byte) : (setFlags m s).byteIdx = s.byteIdx := rfl
@[simp] theorem setFlags_curByte (m : Byte) : (setFlags m s).curByte = s.curByte := rfl
@[simp] theorem setFlags_pkt (m : Byte) : (setFlags m s).pkt = s.pkt := rfl
@[simp] theorem setFlags_qBuf (m : Byte) : (setFlags m s).qBuf = s.qBuf := rfl
@[simp] theorem setFlags_qLen (m : Byte) : (setFlags m s).qLen = s.qLen := rfl
@[simp] theorem setFlags_txbuf (m : Byte) : (setFlags m s).txbuf = s.txbuf := rfl
@[simp] theorem setFlags_rxPayload (m : Byte) : (setFlags m s).rxPayload = s.rxPayload := rfl
@[simp] theorem setFlags_rxValid (m : Byte) : (setFlags m s).rxValid = s.rxValid := rfl
@[simp] theorem setFlags_outFlags (m : Byte) :
    (setFlags m s).outFlags = s.outFlags ||| (m &&& ownMask s.cfg s.pins.role) := rfl
@[simp] theorem setFlags_peerFlags (m : Byte) : (setFlags m s).peerFlags = s.peerFlags := rfl
@[simp] theorem setFlags_hdrA (m : Byte) : (setFlags m s).hdrA = s.hdrA := rfl
@[simp] theorem setFlags_hdrARx (m : Byte) : (setFlags m s).hdrARx = s.hdrARx := rfl
@[simp] theorem setFlags_rbVec (m : Byte) : (setFlags m s).rbVec = s.rbVec := rfl
@[simp] theorem setFlags_diag (m : Byte) : (setFlags m s).diag = s.diag := rfl
@[simp] theorem setFlags_cmdOk (m : Byte) : (setFlags m s).cmdOk = true := rfl
@[simp] theorem setFlags_cmdResult (m : Byte) : (setFlags m s).cmdResult = false := rfl
@[simp] theorem setFlags_txState (m : Byte) : (setFlags m s).txState = s.txState := rfl
@[simp] theorem setFlags_txSlot (m : Byte) : (setFlags m s).txSlot = s.txSlot := rfl
@[simp] theorem setFlags_txrSeen (m : Byte) : (setFlags m s).txrSeen = s.txrSeen := rfl
@[simp] theorem setFlags_idleCtr (m : Byte) : (setFlags m s).idleCtr = s.idleCtr := rfl
@[simp] theorem setFlags_segs (m : Byte) : (setFlags m s).segs = s.segs := rfl
@[simp] theorem setFlags_segRem (m : Byte) : (setFlags m s).segRem = s.segRem := rfl
@[simp] theorem setFlags_injState (m : Byte) : (setFlags m s).injState = s.injState := rfl
@[simp] theorem setFlags_injCtr (m : Byte) : (setFlags m s).injCtr = s.injCtr := rfl
@[simp] theorem setFlags_cfg (m : Byte) : (setFlags m s).cfg = s.cfg := rfl
@[simp] theorem setFlags_pins (m : Byte) : (setFlags m s).pins = s.pins := rfl
@[simp] theorem setFlags_trace (m : Byte) : (setFlags m s).trace = s.trace := rfl
@[simp] theorem setFlags_net (m : Byte) : (setFlags m s).net = s.net := rfl
@[simp] theorem setFlags_text (m : Byte) : (setFlags m s).text = s.text := rfl
@[simp] theorem setFlags_textReady (m : Byte) : (setFlags m s).textReady = s.textReady := rfl
@[simp] theorem setFlags_ephem (m : Byte) : (setFlags m s).ephem = s.ephem := rfl

/-! ### `clearFlags` -/

@[simp] theorem clearFlags_prevLevel (m : Byte) : (clearFlags m s).prevLevel = s.prevLevel := rfl
@[simp] theorem clearFlags_tEdge (m : Byte) : (clearFlags m s).tEdge = s.tEdge := rfl
@[simp] theorem clearFlags_linkState (m : Byte) : (clearFlags m s).linkState = s.linkState := rfl
@[simp] theorem clearFlags_bitIdx (m : Byte) : (clearFlags m s).bitIdx = s.bitIdx := rfl
@[simp] theorem clearFlags_byteIdx (m : Byte) : (clearFlags m s).byteIdx = s.byteIdx := rfl
@[simp] theorem clearFlags_curByte (m : Byte) : (clearFlags m s).curByte = s.curByte := rfl
@[simp] theorem clearFlags_pkt (m : Byte) : (clearFlags m s).pkt = s.pkt := rfl
@[simp] theorem clearFlags_qBuf (m : Byte) : (clearFlags m s).qBuf = s.qBuf := rfl
@[simp] theorem clearFlags_qLen (m : Byte) : (clearFlags m s).qLen = s.qLen := rfl
@[simp] theorem clearFlags_txbuf (m : Byte) : (clearFlags m s).txbuf = s.txbuf := rfl
@[simp] theorem clearFlags_rxPayload (m : Byte) : (clearFlags m s).rxPayload = s.rxPayload := rfl
@[simp] theorem clearFlags_rxValid (m : Byte) : (clearFlags m s).rxValid = s.rxValid := rfl
@[simp] theorem clearFlags_outFlags (m : Byte) :
    (clearFlags m s).outFlags = s.outFlags &&& ~~~m := rfl
@[simp] theorem clearFlags_peerFlags (m : Byte) : (clearFlags m s).peerFlags = s.peerFlags := rfl
@[simp] theorem clearFlags_hdrA (m : Byte) : (clearFlags m s).hdrA = s.hdrA := rfl
@[simp] theorem clearFlags_hdrARx (m : Byte) : (clearFlags m s).hdrARx = s.hdrARx := rfl
@[simp] theorem clearFlags_rbVec (m : Byte) : (clearFlags m s).rbVec = s.rbVec := rfl
@[simp] theorem clearFlags_diag (m : Byte) : (clearFlags m s).diag = s.diag := rfl
@[simp] theorem clearFlags_cmdOk (m : Byte) : (clearFlags m s).cmdOk = true := rfl
@[simp] theorem clearFlags_cmdResult (m : Byte) : (clearFlags m s).cmdResult = false := rfl
@[simp] theorem clearFlags_txState (m : Byte) : (clearFlags m s).txState = s.txState := rfl
@[simp] theorem clearFlags_txSlot (m : Byte) : (clearFlags m s).txSlot = s.txSlot := rfl
@[simp] theorem clearFlags_txrSeen (m : Byte) : (clearFlags m s).txrSeen = s.txrSeen := rfl
@[simp] theorem clearFlags_idleCtr (m : Byte) : (clearFlags m s).idleCtr = s.idleCtr := rfl
@[simp] theorem clearFlags_segs (m : Byte) : (clearFlags m s).segs = s.segs := rfl
@[simp] theorem clearFlags_segRem (m : Byte) : (clearFlags m s).segRem = s.segRem := rfl
@[simp] theorem clearFlags_injState (m : Byte) : (clearFlags m s).injState = s.injState := rfl
@[simp] theorem clearFlags_injCtr (m : Byte) : (clearFlags m s).injCtr = s.injCtr := rfl
@[simp] theorem clearFlags_cfg (m : Byte) : (clearFlags m s).cfg = s.cfg := rfl
@[simp] theorem clearFlags_pins (m : Byte) : (clearFlags m s).pins = s.pins := rfl
@[simp] theorem clearFlags_trace (m : Byte) : (clearFlags m s).trace = s.trace := rfl
@[simp] theorem clearFlags_net (m : Byte) : (clearFlags m s).net = s.net := rfl
@[simp] theorem clearFlags_text (m : Byte) : (clearFlags m s).text = s.text := rfl
@[simp] theorem clearFlags_textReady (m : Byte) : (clearFlags m s).textReady = s.textReady := rfl
@[simp] theorem clearFlags_ephem (m : Byte) : (clearFlags m s).ephem = s.ephem := rfl

/-! ### `clearDiag` -/

@[simp] theorem clearDiag_prevLevel (m : Byte) : (clearDiag m s).prevLevel = s.prevLevel := rfl
@[simp] theorem clearDiag_tEdge (m : Byte) : (clearDiag m s).tEdge = s.tEdge := rfl
@[simp] theorem clearDiag_linkState (m : Byte) : (clearDiag m s).linkState = s.linkState := rfl
@[simp] theorem clearDiag_bitIdx (m : Byte) : (clearDiag m s).bitIdx = s.bitIdx := rfl
@[simp] theorem clearDiag_byteIdx (m : Byte) : (clearDiag m s).byteIdx = s.byteIdx := rfl
@[simp] theorem clearDiag_curByte (m : Byte) : (clearDiag m s).curByte = s.curByte := rfl
@[simp] theorem clearDiag_pkt (m : Byte) : (clearDiag m s).pkt = s.pkt := rfl
@[simp] theorem clearDiag_qBuf (m : Byte) : (clearDiag m s).qBuf = s.qBuf := rfl
@[simp] theorem clearDiag_qLen (m : Byte) : (clearDiag m s).qLen = s.qLen := rfl
@[simp] theorem clearDiag_txbuf (m : Byte) : (clearDiag m s).txbuf = s.txbuf := rfl
@[simp] theorem clearDiag_rxPayload (m : Byte) : (clearDiag m s).rxPayload = s.rxPayload := rfl
@[simp] theorem clearDiag_rxValid (m : Byte) : (clearDiag m s).rxValid = s.rxValid := rfl
@[simp] theorem clearDiag_outFlags (m : Byte) : (clearDiag m s).outFlags = s.outFlags := rfl
@[simp] theorem clearDiag_peerFlags (m : Byte) : (clearDiag m s).peerFlags = s.peerFlags := rfl
@[simp] theorem clearDiag_hdrA (m : Byte) : (clearDiag m s).hdrA = s.hdrA := rfl
@[simp] theorem clearDiag_hdrARx (m : Byte) : (clearDiag m s).hdrARx = s.hdrARx := rfl
@[simp] theorem clearDiag_rbVec (m : Byte) : (clearDiag m s).rbVec = s.rbVec := rfl
@[simp] theorem clearDiag_diag (m : Byte) : (clearDiag m s).diag = s.diag &&& ~~~m := rfl
@[simp] theorem clearDiag_cmdOk (m : Byte) : (clearDiag m s).cmdOk = true := rfl
@[simp] theorem clearDiag_cmdResult (m : Byte) : (clearDiag m s).cmdResult = false := rfl
@[simp] theorem clearDiag_txState (m : Byte) : (clearDiag m s).txState = s.txState := rfl
@[simp] theorem clearDiag_txSlot (m : Byte) : (clearDiag m s).txSlot = s.txSlot := rfl
@[simp] theorem clearDiag_txrSeen (m : Byte) : (clearDiag m s).txrSeen = s.txrSeen := rfl
@[simp] theorem clearDiag_idleCtr (m : Byte) : (clearDiag m s).idleCtr = s.idleCtr := rfl
@[simp] theorem clearDiag_segs (m : Byte) : (clearDiag m s).segs = s.segs := rfl
@[simp] theorem clearDiag_segRem (m : Byte) : (clearDiag m s).segRem = s.segRem := rfl
@[simp] theorem clearDiag_injState (m : Byte) : (clearDiag m s).injState = s.injState := rfl
@[simp] theorem clearDiag_injCtr (m : Byte) : (clearDiag m s).injCtr = s.injCtr := rfl
@[simp] theorem clearDiag_cfg (m : Byte) : (clearDiag m s).cfg = s.cfg := rfl
@[simp] theorem clearDiag_pins (m : Byte) : (clearDiag m s).pins = s.pins := rfl
@[simp] theorem clearDiag_trace (m : Byte) : (clearDiag m s).trace = s.trace := rfl
@[simp] theorem clearDiag_net (m : Byte) : (clearDiag m s).net = s.net := rfl
@[simp] theorem clearDiag_text (m : Byte) : (clearDiag m s).text = s.text := rfl
@[simp] theorem clearDiag_textReady (m : Byte) : (clearDiag m s).textReady = s.textReady := rfl
@[simp] theorem clearDiag_ephem (m : Byte) : (clearDiag m s).ephem = s.ephem := rfl

/-! ### `takeBit` -/

@[simp] theorem takeBit_prevLevel (k : Nat) : (takeBit k s).prevLevel = s.prevLevel := rfl
@[simp] theorem takeBit_tEdge (k : Nat) : (takeBit k s).tEdge = s.tEdge := rfl
@[simp] theorem takeBit_linkState (k : Nat) : (takeBit k s).linkState = s.linkState := rfl
@[simp] theorem takeBit_bitIdx (k : Nat) : (takeBit k s).bitIdx = s.bitIdx := rfl
@[simp] theorem takeBit_byteIdx (k : Nat) : (takeBit k s).byteIdx = s.byteIdx := rfl
@[simp] theorem takeBit_curByte (k : Nat) : (takeBit k s).curByte = s.curByte := rfl
@[simp] theorem takeBit_pkt (k : Nat) : (takeBit k s).pkt = s.pkt := rfl
@[simp] theorem takeBit_qBuf (k : Nat) : (takeBit k s).qBuf = s.qBuf := rfl
@[simp] theorem takeBit_qLen (k : Nat) : (takeBit k s).qLen = s.qLen := rfl
@[simp] theorem takeBit_txbuf (k : Nat) : (takeBit k s).txbuf = s.txbuf := rfl
@[simp] theorem takeBit_rxPayload (k : Nat) : (takeBit k s).rxPayload = s.rxPayload := rfl
@[simp] theorem takeBit_rxValid (k : Nat) : (takeBit k s).rxValid = s.rxValid := rfl
@[simp] theorem takeBit_outFlags (k : Nat) : (takeBit k s).outFlags = s.outFlags := rfl
@[simp] theorem takeBit_peerFlags (k : Nat) :
    (takeBit k s).peerFlags = setBitTo s.peerFlags k false := rfl
@[simp] theorem takeBit_hdrA (k : Nat) : (takeBit k s).hdrA = s.hdrA := rfl
@[simp] theorem takeBit_hdrARx (k : Nat) : (takeBit k s).hdrARx = s.hdrARx := rfl
@[simp] theorem takeBit_rbVec (k : Nat) : (takeBit k s).rbVec = s.rbVec := rfl
@[simp] theorem takeBit_diag (k : Nat) : (takeBit k s).diag = s.diag := rfl
@[simp] theorem takeBit_cmdOk (k : Nat) : (takeBit k s).cmdOk = true := rfl
@[simp] theorem takeBit_cmdResult (k : Nat) : (takeBit k s).cmdResult = bitOf s.peerFlags k := rfl
@[simp] theorem takeBit_txState (k : Nat) : (takeBit k s).txState = s.txState := rfl
@[simp] theorem takeBit_txSlot (k : Nat) : (takeBit k s).txSlot = s.txSlot := rfl
@[simp] theorem takeBit_txrSeen (k : Nat) : (takeBit k s).txrSeen = s.txrSeen := rfl
@[simp] theorem takeBit_idleCtr (k : Nat) : (takeBit k s).idleCtr = s.idleCtr := rfl
@[simp] theorem takeBit_segs (k : Nat) : (takeBit k s).segs = s.segs := rfl
@[simp] theorem takeBit_segRem (k : Nat) : (takeBit k s).segRem = s.segRem := rfl
@[simp] theorem takeBit_injState (k : Nat) : (takeBit k s).injState = s.injState := rfl
@[simp] theorem takeBit_injCtr (k : Nat) : (takeBit k s).injCtr = s.injCtr := rfl
@[simp] theorem takeBit_cfg (k : Nat) : (takeBit k s).cfg = s.cfg := rfl
@[simp] theorem takeBit_pins (k : Nat) : (takeBit k s).pins = s.pins := rfl
@[simp] theorem takeBit_trace (k : Nat) : (takeBit k s).trace = s.trace := rfl
@[simp] theorem takeBit_net (k : Nat) : (takeBit k s).net = s.net := rfl
@[simp] theorem takeBit_text (k : Nat) : (takeBit k s).text = s.text := rfl
@[simp] theorem takeBit_textReady (k : Nat) :
    (takeBit k s).textReady = (s.textReady || isOpportunity k s) := rfl
@[simp] theorem takeBit_ephem (k : Nat) : (takeBit k s).ephem = s.ephem := rfl

/-! ### `play` -/

@[simp] theorem play_prevLevel (w : List Segment) : (play w s).prevLevel = s.prevLevel := rfl
@[simp] theorem play_tEdge (w : List Segment) : (play w s).tEdge = s.tEdge := rfl
@[simp] theorem play_linkState (w : List Segment) : (play w s).linkState = s.linkState := rfl
@[simp] theorem play_bitIdx (w : List Segment) : (play w s).bitIdx = s.bitIdx := rfl
@[simp] theorem play_byteIdx (w : List Segment) : (play w s).byteIdx = s.byteIdx := rfl
@[simp] theorem play_curByte (w : List Segment) : (play w s).curByte = s.curByte := rfl
@[simp] theorem play_pkt (w : List Segment) : (play w s).pkt = s.pkt := rfl
@[simp] theorem play_qBuf (w : List Segment) : (play w s).qBuf = s.qBuf := rfl
@[simp] theorem play_qLen (w : List Segment) : (play w s).qLen = s.qLen := rfl
@[simp] theorem play_txbuf (w : List Segment) : (play w s).txbuf = s.txbuf := rfl
@[simp] theorem play_rxPayload (w : List Segment) : (play w s).rxPayload = s.rxPayload := rfl
@[simp] theorem play_rxValid (w : List Segment) : (play w s).rxValid = s.rxValid := rfl
@[simp] theorem play_outFlags (w : List Segment) : (play w s).outFlags = s.outFlags := rfl
@[simp] theorem play_peerFlags (w : List Segment) : (play w s).peerFlags = s.peerFlags := rfl
@[simp] theorem play_hdrA (w : List Segment) : (play w s).hdrA = s.hdrA := rfl
@[simp] theorem play_hdrARx (w : List Segment) : (play w s).hdrARx = s.hdrARx := rfl
@[simp] theorem play_rbVec (w : List Segment) : (play w s).rbVec = s.rbVec := rfl
@[simp] theorem play_diag (w : List Segment) : (play w s).diag = s.diag := rfl
@[simp] theorem play_cmdOk (w : List Segment) : (play w s).cmdOk = s.cmdOk := rfl
@[simp] theorem play_cmdResult (w : List Segment) : (play w s).cmdResult = s.cmdResult := rfl
@[simp] theorem play_txState (w : List Segment) : (play w s).txState = .play := rfl
@[simp] theorem play_txSlot (w : List Segment) : (play w s).txSlot = s.txSlot := rfl
@[simp] theorem play_txrSeen (w : List Segment) : (play w s).txrSeen = s.txrSeen := rfl
@[simp] theorem play_idleCtr (w : List Segment) : (play w s).idleCtr = s.idleCtr := rfl
@[simp] theorem play_segs (w : List Segment) : (play w s).segs = w := rfl
@[simp] theorem play_segRem (w : List Segment) :
    (play w s).segRem = ((w).head?.map Segment.length).getD 0 := rfl
@[simp] theorem play_injState (w : List Segment) : (play w s).injState = s.injState := rfl
@[simp] theorem play_injCtr (w : List Segment) : (play w s).injCtr = s.injCtr := rfl
@[simp] theorem play_cfg (w : List Segment) : (play w s).cfg = s.cfg := rfl
@[simp] theorem play_pins (w : List Segment) : (play w s).pins = s.pins := rfl
@[simp] theorem play_trace (w : List Segment) : (play w s).trace = s.trace := rfl
@[simp] theorem play_net (w : List Segment) : (play w s).net = s.net := rfl
@[simp] theorem play_text (w : List Segment) : (play w s).text = s.text := rfl
@[simp] theorem play_textReady (w : List Segment) : (play w s).textReady = s.textReady := rfl
@[simp] theorem play_ephem (w : List Segment) : (play w s).ephem = s.ephem := rfl

/-! ### `startFrame` -/

@[simp] theorem startFrame_prevLevel : (startFrame s).prevLevel = s.prevLevel := rfl
@[simp] theorem startFrame_tEdge : (startFrame s).tEdge = s.tEdge := rfl
@[simp] theorem startFrame_linkState : (startFrame s).linkState = s.linkState := rfl
@[simp] theorem startFrame_bitIdx : (startFrame s).bitIdx = 0 := rfl
@[simp] theorem startFrame_byteIdx : (startFrame s).byteIdx = 0 := rfl
@[simp] theorem startFrame_curByte : (startFrame s).curByte = 0x00#8 := rfl
@[simp] theorem startFrame_pkt : (startFrame s).pkt = s.pkt := rfl
@[simp] theorem startFrame_qBuf : (startFrame s).qBuf = s.qBuf := rfl
@[simp] theorem startFrame_qLen : (startFrame s).qLen = s.qLen := rfl
@[simp] theorem startFrame_txbuf : (startFrame s).txbuf = s.txbuf := rfl
@[simp] theorem startFrame_rxPayload : (startFrame s).rxPayload = s.rxPayload := rfl
@[simp] theorem startFrame_rxValid : (startFrame s).rxValid = s.rxValid := rfl
@[simp] theorem startFrame_outFlags : (startFrame s).outFlags = s.outFlags := rfl
@[simp] theorem startFrame_peerFlags : (startFrame s).peerFlags = s.peerFlags := rfl
@[simp] theorem startFrame_hdrA : (startFrame s).hdrA = s.hdrA := rfl
@[simp] theorem startFrame_hdrARx : (startFrame s).hdrARx = s.hdrARx := rfl
@[simp] theorem startFrame_rbVec : (startFrame s).rbVec = s.rbVec := rfl
@[simp] theorem startFrame_diag : (startFrame s).diag = s.diag := rfl
@[simp] theorem startFrame_cmdOk : (startFrame s).cmdOk = s.cmdOk := rfl
@[simp] theorem startFrame_cmdResult : (startFrame s).cmdResult = s.cmdResult := rfl
@[simp] theorem startFrame_txState : (startFrame s).txState = s.txState := rfl
@[simp] theorem startFrame_txSlot : (startFrame s).txSlot = s.txSlot := rfl
@[simp] theorem startFrame_txrSeen : (startFrame s).txrSeen = s.txrSeen := rfl
@[simp] theorem startFrame_idleCtr : (startFrame s).idleCtr = s.idleCtr := rfl
@[simp] theorem startFrame_segs : (startFrame s).segs = s.segs := rfl
@[simp] theorem startFrame_segRem : (startFrame s).segRem = s.segRem := rfl
@[simp] theorem startFrame_injState : (startFrame s).injState = s.injState := rfl
@[simp] theorem startFrame_injCtr : (startFrame s).injCtr = s.injCtr := rfl
@[simp] theorem startFrame_cfg : (startFrame s).cfg = s.cfg := rfl
@[simp] theorem startFrame_pins : (startFrame s).pins = s.pins := rfl
@[simp] theorem startFrame_trace : (startFrame s).trace = s.trace := rfl
@[simp] theorem startFrame_net : (startFrame s).net = s.net := rfl
@[simp] theorem startFrame_text : (startFrame s).text = s.text := rfl
@[simp] theorem startFrame_textReady : (startFrame s).textReady = s.textReady := rfl
@[simp] theorem startFrame_ephem : (startFrame s).ephem = s.ephem := rfl

/-! ### `abandonFrame` -/

@[simp] theorem abandonFrame_prevLevel : (abandonFrame s).prevLevel = s.prevLevel := rfl
@[simp] theorem abandonFrame_tEdge : (abandonFrame s).tEdge = s.tEdge := rfl
@[simp] theorem abandonFrame_linkState : (abandonFrame s).linkState = s.linkState := rfl
@[simp] theorem abandonFrame_bitIdx : (abandonFrame s).bitIdx = 0 := rfl
@[simp] theorem abandonFrame_byteIdx : (abandonFrame s).byteIdx = 0 := rfl
@[simp] theorem abandonFrame_curByte : (abandonFrame s).curByte = 0x00#8 := rfl
@[simp] theorem abandonFrame_pkt : (abandonFrame s).pkt = s.pkt := rfl
@[simp] theorem abandonFrame_qBuf : (abandonFrame s).qBuf = s.qBuf := rfl
@[simp] theorem abandonFrame_qLen : (abandonFrame s).qLen = s.qLen := rfl
@[simp] theorem abandonFrame_txbuf : (abandonFrame s).txbuf = s.txbuf := rfl
@[simp] theorem abandonFrame_rxPayload : (abandonFrame s).rxPayload = s.rxPayload := rfl
@[simp] theorem abandonFrame_rxValid : (abandonFrame s).rxValid = s.rxValid := rfl
@[simp] theorem abandonFrame_outFlags : (abandonFrame s).outFlags = s.outFlags := rfl
@[simp] theorem abandonFrame_peerFlags : (abandonFrame s).peerFlags = s.peerFlags := rfl
@[simp] theorem abandonFrame_hdrA : (abandonFrame s).hdrA = s.hdrA := rfl
@[simp] theorem abandonFrame_hdrARx : (abandonFrame s).hdrARx = s.hdrARx := rfl
@[simp] theorem abandonFrame_rbVec : (abandonFrame s).rbVec = s.rbVec := rfl
@[simp] theorem abandonFrame_diag : (abandonFrame s).diag = s.diag := rfl
@[simp] theorem abandonFrame_cmdOk : (abandonFrame s).cmdOk = s.cmdOk := rfl
@[simp] theorem abandonFrame_cmdResult : (abandonFrame s).cmdResult = s.cmdResult := rfl
@[simp] theorem abandonFrame_txState : (abandonFrame s).txState = s.txState := rfl
@[simp] theorem abandonFrame_txSlot : (abandonFrame s).txSlot = s.txSlot := rfl
@[simp] theorem abandonFrame_txrSeen : (abandonFrame s).txrSeen = s.txrSeen := rfl
@[simp] theorem abandonFrame_idleCtr : (abandonFrame s).idleCtr = s.idleCtr := rfl
@[simp] theorem abandonFrame_segs : (abandonFrame s).segs = s.segs := rfl
@[simp] theorem abandonFrame_segRem : (abandonFrame s).segRem = s.segRem := rfl
@[simp] theorem abandonFrame_injState : (abandonFrame s).injState = s.injState := rfl
@[simp] theorem abandonFrame_injCtr : (abandonFrame s).injCtr = s.injCtr := rfl
@[simp] theorem abandonFrame_cfg : (abandonFrame s).cfg = s.cfg := rfl
@[simp] theorem abandonFrame_pins : (abandonFrame s).pins = s.pins := rfl
@[simp] theorem abandonFrame_trace : (abandonFrame s).trace = s.trace := rfl
@[simp] theorem abandonFrame_net : (abandonFrame s).net = s.net := rfl
@[simp] theorem abandonFrame_text : (abandonFrame s).text = s.text := rfl
@[simp] theorem abandonFrame_textReady : (abandonFrame s).textReady = s.textReady := rfl
@[simp] theorem abandonFrame_ephem : (abandonFrame s).ephem = s.ephem := rfl

/-! ### `mark` -/

@[simp] theorem mark_prevLevel (c : Condition) : (mark c s).prevLevel = s.prevLevel := rfl
@[simp] theorem mark_tEdge (c : Condition) : (mark c s).tEdge = s.tEdge := rfl
@[simp] theorem mark_linkState (c : Condition) : (mark c s).linkState = s.linkState := rfl
@[simp] theorem mark_bitIdx (c : Condition) : (mark c s).bitIdx = s.bitIdx := rfl
@[simp] theorem mark_byteIdx (c : Condition) : (mark c s).byteIdx = s.byteIdx := rfl
@[simp] theorem mark_curByte (c : Condition) : (mark c s).curByte = s.curByte := rfl
@[simp] theorem mark_pkt (c : Condition) : (mark c s).pkt = s.pkt := rfl
@[simp] theorem mark_qBuf (c : Condition) : (mark c s).qBuf = s.qBuf := rfl
@[simp] theorem mark_qLen (c : Condition) : (mark c s).qLen = s.qLen := rfl
@[simp] theorem mark_txbuf (c : Condition) : (mark c s).txbuf = s.txbuf := rfl
@[simp] theorem mark_rxPayload (c : Condition) : (mark c s).rxPayload = s.rxPayload := rfl
@[simp] theorem mark_rxValid (c : Condition) : (mark c s).rxValid = s.rxValid := rfl
@[simp] theorem mark_outFlags (c : Condition) : (mark c s).outFlags = s.outFlags := rfl
@[simp] theorem mark_peerFlags (c : Condition) : (mark c s).peerFlags = s.peerFlags := rfl
@[simp] theorem mark_hdrA (c : Condition) : (mark c s).hdrA = s.hdrA := rfl
@[simp] theorem mark_hdrARx (c : Condition) : (mark c s).hdrARx = s.hdrARx := rfl
@[simp] theorem mark_rbVec (c : Condition) : (mark c s).rbVec = s.rbVec := rfl
@[simp] theorem mark_diag (c : Condition) : (mark c s).diag = s.diag ||| conditionMarks s c := rfl
@[simp] theorem mark_cmdOk (c : Condition) : (mark c s).cmdOk = s.cmdOk := rfl
@[simp] theorem mark_cmdResult (c : Condition) : (mark c s).cmdResult = s.cmdResult := rfl
@[simp] theorem mark_txState (c : Condition) : (mark c s).txState = s.txState := rfl
@[simp] theorem mark_txSlot (c : Condition) : (mark c s).txSlot = s.txSlot := rfl
@[simp] theorem mark_txrSeen (c : Condition) : (mark c s).txrSeen = s.txrSeen := rfl
@[simp] theorem mark_idleCtr (c : Condition) : (mark c s).idleCtr = s.idleCtr := rfl
@[simp] theorem mark_segs (c : Condition) : (mark c s).segs = s.segs := rfl
@[simp] theorem mark_segRem (c : Condition) : (mark c s).segRem = s.segRem := rfl
@[simp] theorem mark_injState (c : Condition) : (mark c s).injState = s.injState := rfl
@[simp] theorem mark_injCtr (c : Condition) : (mark c s).injCtr = s.injCtr := rfl
@[simp] theorem mark_cfg (c : Condition) : (mark c s).cfg = s.cfg := rfl
@[simp] theorem mark_pins (c : Condition) : (mark c s).pins = s.pins := rfl
@[simp] theorem mark_trace (c : Condition) : (mark c s).trace = s.trace := rfl
@[simp] theorem mark_net (c : Condition) : (mark c s).net = s.net := rfl
@[simp] theorem mark_text (c : Condition) : (mark c s).text = s.text := rfl
@[simp] theorem mark_textReady (c : Condition) : (mark c s).textReady = s.textReady := rfl
@[simp] theorem mark_ephem (c : Condition) : (mark c s).ephem = s.ephem := rfl

/-! ### `deliverPacket` -/

@[simp] theorem deliverPacket_prevLevel : (deliverPacket s).prevLevel = s.prevLevel := rfl
@[simp] theorem deliverPacket_tEdge : (deliverPacket s).tEdge = s.tEdge := rfl
@[simp] theorem deliverPacket_linkState : (deliverPacket s).linkState = s.linkState := rfl
@[simp] theorem deliverPacket_bitIdx : (deliverPacket s).bitIdx = s.bitIdx := rfl
@[simp] theorem deliverPacket_byteIdx : (deliverPacket s).byteIdx = s.byteIdx := rfl
@[simp] theorem deliverPacket_curByte : (deliverPacket s).curByte = s.curByte := rfl
@[simp] theorem deliverPacket_pkt : (deliverPacket s).pkt = s.pkt := rfl
@[simp] theorem deliverPacket_qBuf : (deliverPacket s).qBuf = s.qBuf := rfl
@[simp] theorem deliverPacket_qLen : (deliverPacket s).qLen = s.qLen := rfl
@[simp] theorem deliverPacket_txbuf : (deliverPacket s).txbuf = s.txbuf := rfl
@[simp] theorem deliverPacket_rxPayload :
    (deliverPacket s).rxPayload = bufOfList 10 (packetPayload s) := rfl
@[simp] theorem deliverPacket_rxValid : (deliverPacket s).rxValid = true := rfl
@[simp] theorem deliverPacket_outFlags : (deliverPacket s).outFlags = s.outFlags := rfl
@[simp] theorem deliverPacket_peerFlags : (deliverPacket s).peerFlags = byteAt s.pkt 1 := rfl
@[simp] theorem deliverPacket_hdrA : (deliverPacket s).hdrA = s.hdrA := rfl
@[simp] theorem deliverPacket_hdrARx : (deliverPacket s).hdrARx = byteAt s.pkt 0 := rfl
@[simp] theorem deliverPacket_rbVec : (deliverPacket s).rbVec = s.rbVec := rfl
@[simp] theorem deliverPacket_diag : (deliverPacket s).diag = s.diag := rfl
@[simp] theorem deliverPacket_cmdOk : (deliverPacket s).cmdOk = s.cmdOk := rfl
@[simp] theorem deliverPacket_cmdResult : (deliverPacket s).cmdResult = s.cmdResult := rfl
@[simp] theorem deliverPacket_txState : (deliverPacket s).txState = s.txState := rfl
@[simp] theorem deliverPacket_txSlot : (deliverPacket s).txSlot = s.txSlot := rfl
@[simp] theorem deliverPacket_txrSeen : (deliverPacket s).txrSeen = s.txrSeen := rfl
@[simp] theorem deliverPacket_idleCtr : (deliverPacket s).idleCtr = s.idleCtr := rfl
@[simp] theorem deliverPacket_segs : (deliverPacket s).segs = s.segs := rfl
@[simp] theorem deliverPacket_segRem : (deliverPacket s).segRem = s.segRem := rfl
@[simp] theorem deliverPacket_injState : (deliverPacket s).injState = s.injState := rfl
@[simp] theorem deliverPacket_injCtr : (deliverPacket s).injCtr = s.injCtr := rfl
@[simp] theorem deliverPacket_cfg : (deliverPacket s).cfg = s.cfg := rfl
@[simp] theorem deliverPacket_pins : (deliverPacket s).pins = s.pins := rfl
@[simp] theorem deliverPacket_trace : (deliverPacket s).trace = s.trace := rfl
@[simp] theorem deliverPacket_net : (deliverPacket s).net = s.net := rfl
@[simp] theorem deliverPacket_text : (deliverPacket s).text = s.text := rfl
@[simp] theorem deliverPacket_textReady : (deliverPacket s).textReady = s.textReady := rfl
@[simp] theorem deliverPacket_ephem : (deliverPacket s).ephem = s.ephem := rfl

/-! ### `deliverBurst` -/

@[simp] theorem deliverBurst_prevLevel : (deliverBurst s).prevLevel = s.prevLevel := rfl
@[simp] theorem deliverBurst_tEdge : (deliverBurst s).tEdge = s.tEdge := rfl
@[simp] theorem deliverBurst_linkState : (deliverBurst s).linkState = s.linkState := rfl
@[simp] theorem deliverBurst_bitIdx : (deliverBurst s).bitIdx = s.bitIdx := rfl
@[simp] theorem deliverBurst_byteIdx : (deliverBurst s).byteIdx = s.byteIdx := rfl
@[simp] theorem deliverBurst_curByte : (deliverBurst s).curByte = s.curByte := rfl
@[simp] theorem deliverBurst_pkt : (deliverBurst s).pkt = s.pkt := rfl
@[simp] theorem deliverBurst_qBuf : (deliverBurst s).qBuf = s.qBuf := rfl
@[simp] theorem deliverBurst_qLen : (deliverBurst s).qLen = s.qLen := rfl
@[simp] theorem deliverBurst_txbuf : (deliverBurst s).txbuf = s.txbuf := rfl
@[simp] theorem deliverBurst_rxPayload :
    (deliverBurst s).rxPayload = bufOfList 10 (burstPayload s) := rfl
@[simp] theorem deliverBurst_rxValid : (deliverBurst s).rxValid = true := rfl
@[simp] theorem deliverBurst_outFlags : (deliverBurst s).outFlags = s.outFlags := rfl
@[simp] theorem deliverBurst_peerFlags : (deliverBurst s).peerFlags = s.peerFlags := rfl
@[simp] theorem deliverBurst_hdrA : (deliverBurst s).hdrA = s.hdrA := rfl
@[simp] theorem deliverBurst_hdrARx : (deliverBurst s).hdrARx = s.hdrARx := rfl
@[simp] theorem deliverBurst_rbVec : (deliverBurst s).rbVec = s.rbVec := rfl
@[simp] theorem deliverBurst_diag : (deliverBurst s).diag = s.diag := rfl
@[simp] theorem deliverBurst_cmdOk : (deliverBurst s).cmdOk = s.cmdOk := rfl
@[simp] theorem deliverBurst_cmdResult : (deliverBurst s).cmdResult = s.cmdResult := rfl
@[simp] theorem deliverBurst_txState : (deliverBurst s).txState = s.txState := rfl
@[simp] theorem deliverBurst_txSlot : (deliverBurst s).txSlot = s.txSlot := rfl
@[simp] theorem deliverBurst_txrSeen : (deliverBurst s).txrSeen = s.txrSeen := rfl
@[simp] theorem deliverBurst_idleCtr : (deliverBurst s).idleCtr = s.idleCtr := rfl
@[simp] theorem deliverBurst_segs : (deliverBurst s).segs = s.segs := rfl
@[simp] theorem deliverBurst_segRem : (deliverBurst s).segRem = s.segRem := rfl
@[simp] theorem deliverBurst_injState : (deliverBurst s).injState = s.injState := rfl
@[simp] theorem deliverBurst_injCtr : (deliverBurst s).injCtr = s.injCtr := rfl
@[simp] theorem deliverBurst_cfg : (deliverBurst s).cfg = s.cfg := rfl
@[simp] theorem deliverBurst_pins : (deliverBurst s).pins = s.pins := rfl
@[simp] theorem deliverBurst_trace : (deliverBurst s).trace = s.trace := rfl
@[simp] theorem deliverBurst_net : (deliverBurst s).net = s.net := rfl
@[simp] theorem deliverBurst_text : (deliverBurst s).text = s.text := rfl
@[simp] theorem deliverBurst_textReady : (deliverBurst s).textReady = s.textReady := rfl
@[simp] theorem deliverBurst_ephem : (deliverBurst s).ephem = s.ephem := rfl

/-! ### `startReply` -/

@[simp] theorem startReply_prevLevel : (startReply s).prevLevel = s.prevLevel := rfl
@[simp] theorem startReply_tEdge : (startReply s).tEdge = s.tEdge := rfl
@[simp] theorem startReply_linkState : (startReply s).linkState = s.linkState := rfl
@[simp] theorem startReply_bitIdx : (startReply s).bitIdx = s.bitIdx := rfl
@[simp] theorem startReply_byteIdx : (startReply s).byteIdx = s.byteIdx := rfl
@[simp] theorem startReply_curByte : (startReply s).curByte = s.curByte := rfl
@[simp] theorem startReply_pkt : (startReply s).pkt = s.pkt := rfl
@[simp] theorem startReply_qBuf : (startReply s).qBuf = s.qBuf := rfl
@[simp] theorem startReply_qLen : (startReply s).qLen = 0 := rfl
@[simp] theorem startReply_txbuf : (startReply s).txbuf = queuedPayload s := rfl
@[simp] theorem startReply_rxPayload : (startReply s).rxPayload = s.rxPayload := rfl
@[simp] theorem startReply_rxValid : (startReply s).rxValid = s.rxValid := rfl
@[simp] theorem startReply_outFlags : (startReply s).outFlags = s.outFlags := rfl
@[simp] theorem startReply_peerFlags : (startReply s).peerFlags = s.peerFlags := rfl
@[simp] theorem startReply_hdrA : (startReply s).hdrA = s.hdrA := rfl
@[simp] theorem startReply_hdrARx : (startReply s).hdrARx = s.hdrARx := rfl
@[simp] theorem startReply_rbVec : (startReply s).rbVec = s.rbVec := rfl
@[simp] theorem startReply_diag : (startReply s).diag = s.diag := rfl
@[simp] theorem startReply_cmdOk : (startReply s).cmdOk = s.cmdOk := rfl
@[simp] theorem startReply_cmdResult : (startReply s).cmdResult = s.cmdResult := rfl
@[simp] theorem startReply_txState : (startReply s).txState = .play := rfl
@[simp] theorem startReply_txSlot : (startReply s).txSlot = s.txSlot := rfl
@[simp] theorem startReply_txrSeen : (startReply s).txrSeen = s.txrSeen := rfl
@[simp] theorem startReply_idleCtr : (startReply s).idleCtr = s.idleCtr := rfl
@[simp] theorem startReply_segs :
    (startReply s).segs = waveBurst s.cfg (queuedPayload s).toList := rfl
@[simp] theorem startReply_segRem :
    (startReply s).segRem = ((waveBurst s.cfg (queuedPayload s).toList).head?.map Segment.length).getD 0 := rfl
@[simp] theorem startReply_injState : (startReply s).injState = s.injState := rfl
@[simp] theorem startReply_injCtr : (startReply s).injCtr = s.injCtr := rfl
@[simp] theorem startReply_cfg : (startReply s).cfg = s.cfg := rfl
@[simp] theorem startReply_pins : (startReply s).pins = s.pins := rfl
@[simp] theorem startReply_trace : (startReply s).trace = s.trace := rfl
@[simp] theorem startReply_net : (startReply s).net = s.net := rfl
@[simp] theorem startReply_text : (startReply s).text = s.text := rfl
@[simp] theorem startReply_textReady : (startReply s).textReady = s.textReady := rfl
@[simp] theorem startReply_ephem : (startReply s).ephem = s.ephem := rfl

/-! ### `syncLink` -/

@[simp] theorem syncLink_prevLevel : (syncLink s).prevLevel = s.prevLevel := rfl
@[simp] theorem syncLink_tEdge : (syncLink s).tEdge = s.tEdge := rfl
@[simp] theorem syncLink_linkState : (syncLink s).linkState = .resetDetected := rfl
@[simp] theorem syncLink_bitIdx : (syncLink s).bitIdx = s.bitIdx := rfl
@[simp] theorem syncLink_byteIdx : (syncLink s).byteIdx = s.byteIdx := rfl
@[simp] theorem syncLink_curByte : (syncLink s).curByte = s.curByte := rfl
@[simp] theorem syncLink_pkt : (syncLink s).pkt = s.pkt := rfl
@[simp] theorem syncLink_qBuf : (syncLink s).qBuf = s.qBuf := rfl
@[simp] theorem syncLink_qLen : (syncLink s).qLen = s.qLen := rfl
@[simp] theorem syncLink_txbuf : (syncLink s).txbuf = s.txbuf := rfl
@[simp] theorem syncLink_rxPayload : (syncLink s).rxPayload = s.rxPayload := rfl
@[simp] theorem syncLink_rxValid : (syncLink s).rxValid = s.rxValid := rfl
@[simp] theorem syncLink_outFlags : (syncLink s).outFlags = s.outFlags := rfl
@[simp] theorem syncLink_peerFlags : (syncLink s).peerFlags = s.peerFlags := rfl
@[simp] theorem syncLink_hdrA : (syncLink s).hdrA = s.hdrA := rfl
@[simp] theorem syncLink_hdrARx : (syncLink s).hdrARx = s.hdrARx := rfl
@[simp] theorem syncLink_rbVec : (syncLink s).rbVec = s.rbVec := rfl
@[simp] theorem syncLink_diag : (syncLink s).diag = s.diag := rfl
@[simp] theorem syncLink_cmdOk : (syncLink s).cmdOk = s.cmdOk := rfl
@[simp] theorem syncLink_cmdResult : (syncLink s).cmdResult = s.cmdResult := rfl
@[simp] theorem syncLink_txState : (syncLink s).txState = s.txState := rfl
@[simp] theorem syncLink_txSlot : (syncLink s).txSlot = s.txSlot := rfl
@[simp] theorem syncLink_txrSeen : (syncLink s).txrSeen = s.txrSeen := rfl
@[simp] theorem syncLink_idleCtr : (syncLink s).idleCtr = s.idleCtr := rfl
@[simp] theorem syncLink_segs : (syncLink s).segs = s.segs := rfl
@[simp] theorem syncLink_segRem : (syncLink s).segRem = s.segRem := rfl
@[simp] theorem syncLink_injState : (syncLink s).injState = s.injState := rfl
@[simp] theorem syncLink_injCtr : (syncLink s).injCtr = s.injCtr := rfl
@[simp] theorem syncLink_cfg : (syncLink s).cfg = s.cfg := rfl
@[simp] theorem syncLink_pins : (syncLink s).pins = s.pins := rfl
@[simp] theorem syncLink_trace : (syncLink s).trace = s.trace := rfl
@[simp] theorem syncLink_net : (syncLink s).net = s.net := rfl
@[simp] theorem syncLink_text : (syncLink s).text = s.text := rfl
@[simp] theorem syncLink_textReady : (syncLink s).textReady = s.textReady := rfl
@[simp] theorem syncLink_ephem : (syncLink s).ephem = s.ephem := rfl

/-! ### `endReply` -/

@[simp] theorem endReply_prevLevel : (endReply s).prevLevel = s.prevLevel := rfl
@[simp] theorem endReply_tEdge : (endReply s).tEdge = s.tEdge := rfl
@[simp] theorem endReply_linkState : (endReply s).linkState = s.linkState := rfl
@[simp] theorem endReply_bitIdx : (endReply s).bitIdx = s.bitIdx := rfl
@[simp] theorem endReply_byteIdx : (endReply s).byteIdx = s.byteIdx := rfl
@[simp] theorem endReply_curByte : (endReply s).curByte = s.curByte := rfl
@[simp] theorem endReply_pkt : (endReply s).pkt = s.pkt := rfl
@[simp] theorem endReply_qBuf : (endReply s).qBuf = s.qBuf := rfl
@[simp] theorem endReply_qLen : (endReply s).qLen = s.qLen := rfl
@[simp] theorem endReply_txbuf : (endReply s).txbuf = s.txbuf := rfl
@[simp] theorem endReply_rxPayload : (endReply s).rxPayload = s.rxPayload := rfl
@[simp] theorem endReply_rxValid : (endReply s).rxValid = s.rxValid := rfl
@[simp] theorem endReply_outFlags : (endReply s).outFlags = s.outFlags := rfl
@[simp] theorem endReply_peerFlags : (endReply s).peerFlags = s.peerFlags := rfl
@[simp] theorem endReply_hdrA : (endReply s).hdrA = s.hdrA := rfl
@[simp] theorem endReply_hdrARx : (endReply s).hdrARx = s.hdrARx := rfl
@[simp] theorem endReply_rbVec : (endReply s).rbVec = s.rbVec := rfl
@[simp] theorem endReply_diag : (endReply s).diag = s.diag := rfl
@[simp] theorem endReply_cmdOk : (endReply s).cmdOk = s.cmdOk := rfl
@[simp] theorem endReply_cmdResult : (endReply s).cmdResult = s.cmdResult := rfl
@[simp] theorem endReply_txState : (endReply s).txState = .idle := rfl
@[simp] theorem endReply_txSlot : (endReply s).txSlot = s.txSlot := rfl
@[simp] theorem endReply_txrSeen : (endReply s).txrSeen = s.txrSeen := rfl
@[simp] theorem endReply_idleCtr : (endReply s).idleCtr = s.idleCtr := rfl
@[simp] theorem endReply_segs : (endReply s).segs = s.segs := rfl
@[simp] theorem endReply_segRem : (endReply s).segRem = s.segRem := rfl
@[simp] theorem endReply_injState : (endReply s).injState = s.injState := rfl
@[simp] theorem endReply_injCtr : (endReply s).injCtr = s.injCtr := rfl
@[simp] theorem endReply_cfg : (endReply s).cfg = s.cfg := rfl
@[simp] theorem endReply_pins : (endReply s).pins = s.pins := rfl
@[simp] theorem endReply_trace : (endReply s).trace = s.trace := rfl
@[simp] theorem endReply_net : (endReply s).net = s.net := rfl
@[simp] theorem endReply_text : (endReply s).text = s.text := rfl
@[simp] theorem endReply_textReady : (endReply s).textReady = s.textReady := rfl
@[simp] theorem endReply_ephem : (endReply s).ephem = s.ephem := rfl

/-! ### `playPreamble` -/

@[simp] theorem playPreamble_prevLevel : (playPreamble s).prevLevel = s.prevLevel := rfl
@[simp] theorem playPreamble_tEdge : (playPreamble s).tEdge = s.tEdge := rfl
@[simp] theorem playPreamble_linkState : (playPreamble s).linkState = s.linkState := rfl
@[simp] theorem playPreamble_bitIdx : (playPreamble s).bitIdx = s.bitIdx := rfl
@[simp] theorem playPreamble_byteIdx : (playPreamble s).byteIdx = s.byteIdx := rfl
@[simp] theorem playPreamble_curByte : (playPreamble s).curByte = s.curByte := rfl
@[simp] theorem playPreamble_pkt : (playPreamble s).pkt = s.pkt := rfl
@[simp] theorem playPreamble_qBuf : (playPreamble s).qBuf = s.qBuf := rfl
@[simp] theorem playPreamble_qLen : (playPreamble s).qLen = s.qLen := rfl
@[simp] theorem playPreamble_txbuf : (playPreamble s).txbuf = s.txbuf := rfl
@[simp] theorem playPreamble_rxPayload : (playPreamble s).rxPayload = s.rxPayload := rfl
@[simp] theorem playPreamble_rxValid : (playPreamble s).rxValid = s.rxValid := rfl
@[simp] theorem playPreamble_outFlags : (playPreamble s).outFlags = s.outFlags := rfl
@[simp] theorem playPreamble_peerFlags : (playPreamble s).peerFlags = s.peerFlags := rfl
@[simp] theorem playPreamble_hdrA : (playPreamble s).hdrA = s.hdrA := rfl
@[simp] theorem playPreamble_hdrARx : (playPreamble s).hdrARx = s.hdrARx := rfl
@[simp] theorem playPreamble_rbVec : (playPreamble s).rbVec = s.rbVec := rfl
@[simp] theorem playPreamble_diag : (playPreamble s).diag = s.diag := rfl
@[simp] theorem playPreamble_cmdOk : (playPreamble s).cmdOk = s.cmdOk := rfl
@[simp] theorem playPreamble_cmdResult : (playPreamble s).cmdResult = s.cmdResult := rfl
@[simp] theorem playPreamble_txState : (playPreamble s).txState = .play := rfl
@[simp] theorem playPreamble_txSlot : (playPreamble s).txSlot = 0 := rfl
@[simp] theorem playPreamble_txrSeen : (playPreamble s).txrSeen = s.txrSeen := rfl
@[simp] theorem playPreamble_idleCtr : (playPreamble s).idleCtr = s.idleCtr := rfl
@[simp] theorem playPreamble_segs : (playPreamble s).segs = waveReset s.cfg := rfl
@[simp] theorem playPreamble_segRem :
    (playPreamble s).segRem = ((waveReset s.cfg).head?.map Segment.length).getD 0 := rfl
@[simp] theorem playPreamble_injState : (playPreamble s).injState = s.injState := rfl
@[simp] theorem playPreamble_injCtr : (playPreamble s).injCtr = s.injCtr := rfl
@[simp] theorem playPreamble_cfg : (playPreamble s).cfg = s.cfg := rfl
@[simp] theorem playPreamble_pins : (playPreamble s).pins = s.pins := rfl
@[simp] theorem playPreamble_trace : (playPreamble s).trace = s.trace := rfl
@[simp] theorem playPreamble_net : (playPreamble s).net = s.net := rfl
@[simp] theorem playPreamble_text : (playPreamble s).text = s.text := rfl
@[simp] theorem playPreamble_textReady : (playPreamble s).textReady = s.textReady := rfl
@[simp] theorem playPreamble_ephem : (playPreamble s).ephem = s.ephem := rfl

/-! ### `playHeader` -/

@[simp] theorem playHeader_prevLevel : (playHeader s).prevLevel = s.prevLevel := rfl
@[simp] theorem playHeader_tEdge : (playHeader s).tEdge = s.tEdge := rfl
@[simp] theorem playHeader_linkState : (playHeader s).linkState = s.linkState := rfl
@[simp] theorem playHeader_bitIdx : (playHeader s).bitIdx = s.bitIdx := rfl
@[simp] theorem playHeader_byteIdx : (playHeader s).byteIdx = s.byteIdx := rfl
@[simp] theorem playHeader_curByte : (playHeader s).curByte = s.curByte := rfl
@[simp] theorem playHeader_pkt : (playHeader s).pkt = s.pkt := rfl
@[simp] theorem playHeader_qBuf : (playHeader s).qBuf = s.qBuf := rfl
@[simp] theorem playHeader_qLen : (playHeader s).qLen = s.qLen := rfl
@[simp] theorem playHeader_txbuf : (playHeader s).txbuf = s.txbuf := rfl
@[simp] theorem playHeader_rxPayload : (playHeader s).rxPayload = s.rxPayload := rfl
@[simp] theorem playHeader_rxValid : (playHeader s).rxValid = s.rxValid := rfl
@[simp] theorem playHeader_outFlags : (playHeader s).outFlags = s.outFlags := rfl
@[simp] theorem playHeader_peerFlags : (playHeader s).peerFlags = s.peerFlags := rfl
@[simp] theorem playHeader_hdrA : (playHeader s).hdrA = s.hdrA := rfl
@[simp] theorem playHeader_hdrARx : (playHeader s).hdrARx = s.hdrARx := rfl
@[simp] theorem playHeader_rbVec : (playHeader s).rbVec = s.rbVec := rfl
@[simp] theorem playHeader_diag : (playHeader s).diag = s.diag := rfl
@[simp] theorem playHeader_cmdOk : (playHeader s).cmdOk = s.cmdOk := rfl
@[simp] theorem playHeader_cmdResult : (playHeader s).cmdResult = s.cmdResult := rfl
@[simp] theorem playHeader_txState : (playHeader s).txState = .play := rfl
@[simp] theorem playHeader_txSlot : (playHeader s).txSlot = 1 := rfl
@[simp] theorem playHeader_txrSeen : (playHeader s).txrSeen = s.txrSeen := rfl
@[simp] theorem playHeader_idleCtr : (playHeader s).idleCtr = s.idleCtr := rfl
@[simp] theorem playHeader_segs : (playHeader s).segs = waveByte s.cfg s.hdrA (overlayMask s) := rfl
@[simp] theorem playHeader_segRem :
    (playHeader s).segRem = ((waveByte s.cfg s.hdrA (overlayMask s)).head?.map Segment.length).getD 0 := rfl
@[simp] theorem playHeader_injState : (playHeader s).injState = s.injState := rfl
@[simp] theorem playHeader_injCtr : (playHeader s).injCtr = s.injCtr := rfl
@[simp] theorem playHeader_cfg : (playHeader s).cfg = s.cfg := rfl
@[simp] theorem playHeader_pins : (playHeader s).pins = s.pins := rfl
@[simp] theorem playHeader_trace : (playHeader s).trace = s.trace := rfl
@[simp] theorem playHeader_net : (playHeader s).net = s.net := rfl
@[simp] theorem playHeader_text : (playHeader s).text = s.text := rfl
@[simp] theorem playHeader_textReady : (playHeader s).textReady = s.textReady := rfl
@[simp] theorem playHeader_ephem : (playHeader s).ephem = s.ephem := rfl

/-! ### `foldOverlay` -/

@[simp] theorem foldOverlay_prevLevel : (foldOverlay s).prevLevel = s.prevLevel := rfl
@[simp] theorem foldOverlay_tEdge : (foldOverlay s).tEdge = s.tEdge := rfl
@[simp] theorem foldOverlay_linkState : (foldOverlay s).linkState = s.linkState := rfl
@[simp] theorem foldOverlay_bitIdx : (foldOverlay s).bitIdx = s.bitIdx := rfl
@[simp] theorem foldOverlay_byteIdx : (foldOverlay s).byteIdx = s.byteIdx := rfl
@[simp] theorem foldOverlay_curByte : (foldOverlay s).curByte = s.curByte := rfl
@[simp] theorem foldOverlay_pkt : (foldOverlay s).pkt = s.pkt := rfl
@[simp] theorem foldOverlay_qBuf : (foldOverlay s).qBuf = s.qBuf := rfl
@[simp] theorem foldOverlay_qLen : (foldOverlay s).qLen = s.qLen := rfl
@[simp] theorem foldOverlay_txbuf : (foldOverlay s).txbuf = s.txbuf := rfl
@[simp] theorem foldOverlay_rxPayload : (foldOverlay s).rxPayload = s.rxPayload := rfl
@[simp] theorem foldOverlay_rxValid : (foldOverlay s).rxValid = s.rxValid := rfl
@[simp] theorem foldOverlay_outFlags : (foldOverlay s).outFlags = s.outFlags := rfl
@[simp] theorem foldOverlay_peerFlags :
    (foldOverlay s).peerFlags = foldFlags s.cfg s.peerFlags s.rbVec := rfl
@[simp] theorem foldOverlay_hdrA : (foldOverlay s).hdrA = s.hdrA := rfl
@[simp] theorem foldOverlay_hdrARx : (foldOverlay s).hdrARx = s.hdrARx := rfl
@[simp] theorem foldOverlay_rbVec : (foldOverlay s).rbVec = s.rbVec := rfl
@[simp] theorem foldOverlay_diag : (foldOverlay s).diag = s.diag := rfl
@[simp] theorem foldOverlay_cmdOk : (foldOverlay s).cmdOk = s.cmdOk := rfl
@[simp] theorem foldOverlay_cmdResult : (foldOverlay s).cmdResult = s.cmdResult := rfl
@[simp] theorem foldOverlay_txState : (foldOverlay s).txState = s.txState := rfl
@[simp] theorem foldOverlay_txSlot : (foldOverlay s).txSlot = s.txSlot := rfl
@[simp] theorem foldOverlay_txrSeen : (foldOverlay s).txrSeen = bitOf s.rbVec 4 := rfl
@[simp] theorem foldOverlay_idleCtr : (foldOverlay s).idleCtr = s.idleCtr := rfl
@[simp] theorem foldOverlay_segs : (foldOverlay s).segs = s.segs := rfl
@[simp] theorem foldOverlay_segRem : (foldOverlay s).segRem = s.segRem := rfl
@[simp] theorem foldOverlay_injState : (foldOverlay s).injState = s.injState := rfl
@[simp] theorem foldOverlay_injCtr : (foldOverlay s).injCtr = s.injCtr := rfl
@[simp] theorem foldOverlay_cfg : (foldOverlay s).cfg = s.cfg := rfl
@[simp] theorem foldOverlay_pins : (foldOverlay s).pins = s.pins := rfl
@[simp] theorem foldOverlay_trace : (foldOverlay s).trace = s.trace := rfl
@[simp] theorem foldOverlay_net : (foldOverlay s).net = s.net := rfl
@[simp] theorem foldOverlay_text : (foldOverlay s).text = s.text := rfl
@[simp] theorem foldOverlay_textReady : (foldOverlay s).textReady = s.textReady := rfl
@[simp] theorem foldOverlay_ephem : (foldOverlay s).ephem = s.ephem := rfl

/-! ### `playFlags` -/

@[simp] theorem playFlags_prevLevel : (playFlags s).prevLevel = s.prevLevel := rfl
@[simp] theorem playFlags_tEdge : (playFlags s).tEdge = s.tEdge := rfl
@[simp] theorem playFlags_linkState : (playFlags s).linkState = s.linkState := rfl
@[simp] theorem playFlags_bitIdx : (playFlags s).bitIdx = s.bitIdx := rfl
@[simp] theorem playFlags_byteIdx : (playFlags s).byteIdx = s.byteIdx := rfl
@[simp] theorem playFlags_curByte : (playFlags s).curByte = s.curByte := rfl
@[simp] theorem playFlags_pkt : (playFlags s).pkt = s.pkt := rfl
@[simp] theorem playFlags_qBuf : (playFlags s).qBuf = s.qBuf := rfl
@[simp] theorem playFlags_qLen : (playFlags s).qLen = s.qLen := rfl
@[simp] theorem playFlags_txbuf : (playFlags s).txbuf = s.txbuf := rfl
@[simp] theorem playFlags_rxPayload : (playFlags s).rxPayload = s.rxPayload := rfl
@[simp] theorem playFlags_rxValid : (playFlags s).rxValid = s.rxValid := rfl
@[simp] theorem playFlags_outFlags : (playFlags s).outFlags = s.outFlags := rfl
@[simp] theorem playFlags_peerFlags : (playFlags s).peerFlags = s.peerFlags := rfl
@[simp] theorem playFlags_hdrA : (playFlags s).hdrA = s.hdrA := rfl
@[simp] theorem playFlags_hdrARx : (playFlags s).hdrARx = s.hdrARx := rfl
@[simp] theorem playFlags_rbVec : (playFlags s).rbVec = s.rbVec := rfl
@[simp] theorem playFlags_diag : (playFlags s).diag = s.diag := rfl
@[simp] theorem playFlags_cmdOk : (playFlags s).cmdOk = s.cmdOk := rfl
@[simp] theorem playFlags_cmdResult : (playFlags s).cmdResult = s.cmdResult := rfl
@[simp] theorem playFlags_txState : (playFlags s).txState = .play := rfl
@[simp] theorem playFlags_txSlot : (playFlags s).txSlot = 2 := rfl
@[simp] theorem playFlags_txrSeen : (playFlags s).txrSeen = s.txrSeen := rfl
@[simp] theorem playFlags_idleCtr : (playFlags s).idleCtr = s.idleCtr := rfl
@[simp] theorem playFlags_segs : (playFlags s).segs = waveByte s.cfg s.outFlags 0x00#8 := rfl
@[simp] theorem playFlags_segRem :
    (playFlags s).segRem = ((waveByte s.cfg s.outFlags 0x00#8).head?.map Segment.length).getD 0 := rfl
@[simp] theorem playFlags_injState : (playFlags s).injState = s.injState := rfl
@[simp] theorem playFlags_injCtr : (playFlags s).injCtr = s.injCtr := rfl
@[simp] theorem playFlags_cfg : (playFlags s).cfg = s.cfg := rfl
@[simp] theorem playFlags_pins : (playFlags s).pins = s.pins := rfl
@[simp] theorem playFlags_trace : (playFlags s).trace = s.trace := rfl
@[simp] theorem playFlags_net : (playFlags s).net = s.net := rfl
@[simp] theorem playFlags_text : (playFlags s).text = s.text := rfl
@[simp] theorem playFlags_textReady : (playFlags s).textReady = s.textReady := rfl
@[simp] theorem playFlags_ephem : (playFlags s).ephem = s.ephem := rfl

/-! ### `playPayload` -/

@[simp] theorem playPayload_prevLevel : (playPayload s).prevLevel = s.prevLevel := rfl
@[simp] theorem playPayload_tEdge : (playPayload s).tEdge = s.tEdge := rfl
@[simp] theorem playPayload_linkState : (playPayload s).linkState = s.linkState := rfl
@[simp] theorem playPayload_bitIdx : (playPayload s).bitIdx = s.bitIdx := rfl
@[simp] theorem playPayload_byteIdx : (playPayload s).byteIdx = s.byteIdx := rfl
@[simp] theorem playPayload_curByte : (playPayload s).curByte = s.curByte := rfl
@[simp] theorem playPayload_pkt : (playPayload s).pkt = s.pkt := rfl
@[simp] theorem playPayload_qBuf : (playPayload s).qBuf = s.qBuf := rfl
@[simp] theorem playPayload_qLen : (playPayload s).qLen = s.qLen := rfl
@[simp] theorem playPayload_txbuf : (playPayload s).txbuf = s.txbuf := rfl
@[simp] theorem playPayload_rxPayload : (playPayload s).rxPayload = s.rxPayload := rfl
@[simp] theorem playPayload_rxValid : (playPayload s).rxValid = s.rxValid := rfl
@[simp] theorem playPayload_outFlags : (playPayload s).outFlags = s.outFlags := rfl
@[simp] theorem playPayload_peerFlags : (playPayload s).peerFlags = s.peerFlags := rfl
@[simp] theorem playPayload_hdrA : (playPayload s).hdrA = s.hdrA := rfl
@[simp] theorem playPayload_hdrARx : (playPayload s).hdrARx = s.hdrARx := rfl
@[simp] theorem playPayload_rbVec : (playPayload s).rbVec = s.rbVec := rfl
@[simp] theorem playPayload_diag : (playPayload s).diag = s.diag := rfl
@[simp] theorem playPayload_cmdOk : (playPayload s).cmdOk = s.cmdOk := rfl
@[simp] theorem playPayload_cmdResult : (playPayload s).cmdResult = s.cmdResult := rfl
@[simp] theorem playPayload_txState : (playPayload s).txState = .play := rfl
@[simp] theorem playPayload_txSlot : (playPayload s).txSlot = s.txSlot + 1 := rfl
@[simp] theorem playPayload_txrSeen : (playPayload s).txrSeen = s.txrSeen := rfl
@[simp] theorem playPayload_idleCtr : (playPayload s).idleCtr = s.idleCtr := rfl
@[simp] theorem playPayload_segs :
    (playPayload s).segs = waveByte s.cfg (byteAt s.txbuf (s.txSlot - 2)) 0x00#8 := rfl
@[simp] theorem playPayload_segRem :
    (playPayload s).segRem = ((waveByte s.cfg (byteAt s.txbuf (s.txSlot - 2)) 0x00#8).head?.map Segment.length).getD 0 := rfl
@[simp] theorem playPayload_injState : (playPayload s).injState = s.injState := rfl
@[simp] theorem playPayload_injCtr : (playPayload s).injCtr = s.injCtr := rfl
@[simp] theorem playPayload_cfg : (playPayload s).cfg = s.cfg := rfl
@[simp] theorem playPayload_pins : (playPayload s).pins = s.pins := rfl
@[simp] theorem playPayload_trace : (playPayload s).trace = s.trace := rfl
@[simp] theorem playPayload_net : (playPayload s).net = s.net := rfl
@[simp] theorem playPayload_text : (playPayload s).text = s.text := rfl
@[simp] theorem playPayload_textReady : (playPayload s).textReady = s.textReady := rfl
@[simp] theorem playPayload_ephem : (playPayload s).ephem = s.ephem := rfl

/-! ### `playParity` -/

@[simp] theorem playParity_prevLevel : (playParity s).prevLevel = s.prevLevel := rfl
@[simp] theorem playParity_tEdge : (playParity s).tEdge = s.tEdge := rfl
@[simp] theorem playParity_linkState : (playParity s).linkState = s.linkState := rfl
@[simp] theorem playParity_bitIdx : (playParity s).bitIdx = s.bitIdx := rfl
@[simp] theorem playParity_byteIdx : (playParity s).byteIdx = s.byteIdx := rfl
@[simp] theorem playParity_curByte : (playParity s).curByte = s.curByte := rfl
@[simp] theorem playParity_pkt : (playParity s).pkt = s.pkt := rfl
@[simp] theorem playParity_qBuf : (playParity s).qBuf = s.qBuf := rfl
@[simp] theorem playParity_qLen : (playParity s).qLen = s.qLen := rfl
@[simp] theorem playParity_txbuf : (playParity s).txbuf = s.txbuf := rfl
@[simp] theorem playParity_rxPayload : (playParity s).rxPayload = s.rxPayload := rfl
@[simp] theorem playParity_rxValid : (playParity s).rxValid = s.rxValid := rfl
@[simp] theorem playParity_outFlags : (playParity s).outFlags = s.outFlags := rfl
@[simp] theorem playParity_peerFlags : (playParity s).peerFlags = s.peerFlags := rfl
@[simp] theorem playParity_hdrA : (playParity s).hdrA = s.hdrA := rfl
@[simp] theorem playParity_hdrARx : (playParity s).hdrARx = s.hdrARx := rfl
@[simp] theorem playParity_rbVec : (playParity s).rbVec = s.rbVec := rfl
@[simp] theorem playParity_diag : (playParity s).diag = s.diag := rfl
@[simp] theorem playParity_cmdOk : (playParity s).cmdOk = s.cmdOk := rfl
@[simp] theorem playParity_cmdResult : (playParity s).cmdResult = s.cmdResult := rfl
@[simp] theorem playParity_txState : (playParity s).txState = .play := rfl
@[simp] theorem playParity_txSlot : (playParity s).txSlot = 13 := rfl
@[simp] theorem playParity_txrSeen : (playParity s).txrSeen = s.txrSeen := rfl
@[simp] theorem playParity_idleCtr : (playParity s).idleCtr = s.idleCtr := rfl
@[simp] theorem playParity_segs :
    (playParity s).segs = waveByte s.cfg (xorFold s.txbuf.toList) 0x00#8 := rfl
@[simp] theorem playParity_segRem :
    (playParity s).segRem = ((waveByte s.cfg (xorFold s.txbuf.toList) 0x00#8).head?.map Segment.length).getD 0 := rfl
@[simp] theorem playParity_injState : (playParity s).injState = s.injState := rfl
@[simp] theorem playParity_injCtr : (playParity s).injCtr = s.injCtr := rfl
@[simp] theorem playParity_cfg : (playParity s).cfg = s.cfg := rfl
@[simp] theorem playParity_pins : (playParity s).pins = s.pins := rfl
@[simp] theorem playParity_trace : (playParity s).trace = s.trace := rfl
@[simp] theorem playParity_net : (playParity s).net = s.net := rfl
@[simp] theorem playParity_text : (playParity s).text = s.text := rfl
@[simp] theorem playParity_textReady : (playParity s).textReady = s.textReady := rfl
@[simp] theorem playParity_ephem : (playParity s).ephem = s.ephem := rfl

/-! ### `endCycle` -/

@[simp] theorem endCycle_prevLevel : (endCycle s).prevLevel = s.prevLevel := rfl
@[simp] theorem endCycle_tEdge : (endCycle s).tEdge = s.tEdge := rfl
@[simp] theorem endCycle_linkState : (endCycle s).linkState = s.linkState := rfl
@[simp] theorem endCycle_bitIdx : (endCycle s).bitIdx = s.bitIdx := rfl
@[simp] theorem endCycle_byteIdx : (endCycle s).byteIdx = s.byteIdx := rfl
@[simp] theorem endCycle_curByte : (endCycle s).curByte = s.curByte := rfl
@[simp] theorem endCycle_pkt : (endCycle s).pkt = s.pkt := rfl
@[simp] theorem endCycle_qBuf : (endCycle s).qBuf = s.qBuf := rfl
@[simp] theorem endCycle_qLen : (endCycle s).qLen = s.qLen := rfl
@[simp] theorem endCycle_txbuf : (endCycle s).txbuf = s.txbuf := rfl
@[simp] theorem endCycle_rxPayload : (endCycle s).rxPayload = s.rxPayload := rfl
@[simp] theorem endCycle_rxValid : (endCycle s).rxValid = s.rxValid := rfl
@[simp] theorem endCycle_outFlags : (endCycle s).outFlags = s.outFlags := rfl
@[simp] theorem endCycle_peerFlags : (endCycle s).peerFlags = s.peerFlags := rfl
@[simp] theorem endCycle_hdrA : (endCycle s).hdrA = s.hdrA := rfl
@[simp] theorem endCycle_hdrARx : (endCycle s).hdrARx = s.hdrARx := rfl
@[simp] theorem endCycle_rbVec : (endCycle s).rbVec = s.rbVec := rfl
@[simp] theorem endCycle_diag : (endCycle s).diag = s.diag := rfl
@[simp] theorem endCycle_cmdOk : (endCycle s).cmdOk = s.cmdOk := rfl
@[simp] theorem endCycle_cmdResult : (endCycle s).cmdResult = s.cmdResult := rfl
@[simp] theorem endCycle_txState : (endCycle s).txState = .idle := rfl
@[simp] theorem endCycle_txSlot : (endCycle s).txSlot = 0 := rfl
@[simp] theorem endCycle_txrSeen : (endCycle s).txrSeen = s.txrSeen := rfl
@[simp] theorem endCycle_idleCtr : (endCycle s).idleCtr = 0 := rfl
@[simp] theorem endCycle_segs : (endCycle s).segs = s.segs := rfl
@[simp] theorem endCycle_segRem : (endCycle s).segRem = s.segRem := rfl
@[simp] theorem endCycle_injState : (endCycle s).injState = s.injState := rfl
@[simp] theorem endCycle_injCtr : (endCycle s).injCtr = s.injCtr := rfl
@[simp] theorem endCycle_cfg : (endCycle s).cfg = s.cfg := rfl
@[simp] theorem endCycle_pins : (endCycle s).pins = s.pins := rfl
@[simp] theorem endCycle_trace : (endCycle s).trace = s.trace := rfl
@[simp] theorem endCycle_net : (endCycle s).net = s.net := rfl
@[simp] theorem endCycle_text : (endCycle s).text = s.text := rfl
@[simp] theorem endCycle_textReady : (endCycle s).textReady = s.textReady := rfl
@[simp] theorem endCycle_ephem : (endCycle s).ephem = s.ephem := rfl

/-! ### `enterReadBack` -/

@[simp] theorem enterReadBack_prevLevel : (enterReadBack s).prevLevel = s.prevLevel := rfl
@[simp] theorem enterReadBack_tEdge : (enterReadBack s).tEdge = s.tEdge := rfl
@[simp] theorem enterReadBack_linkState : (enterReadBack s).linkState = s.linkState := rfl
@[simp] theorem enterReadBack_bitIdx : (enterReadBack s).bitIdx = 0 := rfl
@[simp] theorem enterReadBack_byteIdx : (enterReadBack s).byteIdx = 0 := rfl
@[simp] theorem enterReadBack_curByte : (enterReadBack s).curByte = 0x00#8 := rfl
@[simp] theorem enterReadBack_pkt : (enterReadBack s).pkt = s.pkt := rfl
@[simp] theorem enterReadBack_qBuf : (enterReadBack s).qBuf = s.qBuf := rfl
@[simp] theorem enterReadBack_qLen : (enterReadBack s).qLen = s.qLen := rfl
@[simp] theorem enterReadBack_txbuf : (enterReadBack s).txbuf = s.txbuf := rfl
@[simp] theorem enterReadBack_rxPayload : (enterReadBack s).rxPayload = s.rxPayload := rfl
@[simp] theorem enterReadBack_rxValid : (enterReadBack s).rxValid = s.rxValid := rfl
@[simp] theorem enterReadBack_outFlags : (enterReadBack s).outFlags = s.outFlags := rfl
@[simp] theorem enterReadBack_peerFlags : (enterReadBack s).peerFlags = s.peerFlags := rfl
@[simp] theorem enterReadBack_hdrA : (enterReadBack s).hdrA = s.hdrA := rfl
@[simp] theorem enterReadBack_hdrARx : (enterReadBack s).hdrARx = s.hdrARx := rfl
@[simp] theorem enterReadBack_rbVec : (enterReadBack s).rbVec = s.rbVec := rfl
@[simp] theorem enterReadBack_diag : (enterReadBack s).diag = s.diag := rfl
@[simp] theorem enterReadBack_cmdOk : (enterReadBack s).cmdOk = s.cmdOk := rfl
@[simp] theorem enterReadBack_cmdResult : (enterReadBack s).cmdResult = s.cmdResult := rfl
@[simp] theorem enterReadBack_txState : (enterReadBack s).txState = .readBack := rfl
@[simp] theorem enterReadBack_txSlot : (enterReadBack s).txSlot = 0 := rfl
@[simp] theorem enterReadBack_txrSeen : (enterReadBack s).txrSeen = s.txrSeen := rfl
@[simp] theorem enterReadBack_idleCtr : (enterReadBack s).idleCtr = s.idleCtr := rfl
@[simp] theorem enterReadBack_segs : (enterReadBack s).segs = s.segs := rfl
@[simp] theorem enterReadBack_segRem : (enterReadBack s).segRem = s.segRem := rfl
@[simp] theorem enterReadBack_injState : (enterReadBack s).injState = s.injState := rfl
@[simp] theorem enterReadBack_injCtr : (enterReadBack s).injCtr = s.injCtr := rfl
@[simp] theorem enterReadBack_cfg : (enterReadBack s).cfg = s.cfg := rfl
@[simp] theorem enterReadBack_pins : (enterReadBack s).pins = s.pins := rfl
@[simp] theorem enterReadBack_trace : (enterReadBack s).trace = s.trace := rfl
@[simp] theorem enterReadBack_net : (enterReadBack s).net = s.net := rfl
@[simp] theorem enterReadBack_text : (enterReadBack s).text = s.text := rfl
@[simp] theorem enterReadBack_textReady : (enterReadBack s).textReady = s.textReady := rfl
@[simp] theorem enterReadBack_ephem : (enterReadBack s).ephem = s.ephem := rfl

/-! ### `beginTick` -/

@[simp] theorem beginTick_prevLevel (line : Level) :
    (beginTick line s).prevLevel = s.prevLevel := rfl
@[simp] theorem beginTick_tEdge (line : Level) : (beginTick line s).tEdge = s.tEdge := rfl
@[simp] theorem beginTick_linkState (line : Level) :
    (beginTick line s).linkState = s.linkState := rfl
@[simp] theorem beginTick_bitIdx (line : Level) : (beginTick line s).bitIdx = s.bitIdx := rfl
@[simp] theorem beginTick_byteIdx (line : Level) : (beginTick line s).byteIdx = s.byteIdx := rfl
@[simp] theorem beginTick_curByte (line : Level) : (beginTick line s).curByte = s.curByte := rfl
@[simp] theorem beginTick_pkt (line : Level) : (beginTick line s).pkt = s.pkt := rfl
@[simp] theorem beginTick_qBuf (line : Level) : (beginTick line s).qBuf = s.qBuf := rfl
@[simp] theorem beginTick_qLen (line : Level) : (beginTick line s).qLen = s.qLen := rfl
@[simp] theorem beginTick_txbuf (line : Level) : (beginTick line s).txbuf = s.txbuf := rfl
@[simp] theorem beginTick_rxPayload (line : Level) :
    (beginTick line s).rxPayload = s.rxPayload := rfl
@[simp] theorem beginTick_rxValid (line : Level) : (beginTick line s).rxValid = s.rxValid := rfl
@[simp] theorem beginTick_outFlags (line : Level) : (beginTick line s).outFlags = s.outFlags := rfl
@[simp] theorem beginTick_peerFlags (line : Level) :
    (beginTick line s).peerFlags = s.peerFlags := rfl
@[simp] theorem beginTick_hdrA (line : Level) : (beginTick line s).hdrA = s.hdrA := rfl
@[simp] theorem beginTick_hdrARx (line : Level) : (beginTick line s).hdrARx = s.hdrARx := rfl
@[simp] theorem beginTick_rbVec (line : Level) : (beginTick line s).rbVec = s.rbVec := rfl
@[simp] theorem beginTick_diag (line : Level) : (beginTick line s).diag = s.diag := rfl
@[simp] theorem beginTick_cmdOk (line : Level) : (beginTick line s).cmdOk = s.cmdOk := rfl
@[simp] theorem beginTick_cmdResult (line : Level) :
    (beginTick line s).cmdResult = s.cmdResult := rfl
@[simp] theorem beginTick_txState (line : Level) : (beginTick line s).txState = s.txState := rfl
@[simp] theorem beginTick_txSlot (line : Level) : (beginTick line s).txSlot = s.txSlot := rfl
@[simp] theorem beginTick_txrSeen (line : Level) : (beginTick line s).txrSeen = s.txrSeen := rfl
@[simp] theorem beginTick_idleCtr (line : Level) : (beginTick line s).idleCtr = s.idleCtr := rfl
@[simp] theorem beginTick_segs (line : Level) : (beginTick line s).segs = s.segs := rfl
@[simp] theorem beginTick_segRem (line : Level) : (beginTick line s).segRem = s.segRem := rfl
@[simp] theorem beginTick_injState (line : Level) : (beginTick line s).injState = s.injState := rfl
@[simp] theorem beginTick_injCtr (line : Level) : (beginTick line s).injCtr = s.injCtr := rfl
@[simp] theorem beginTick_cfg (line : Level) : (beginTick line s).cfg = s.cfg := rfl
@[simp] theorem beginTick_pins (line : Level) : (beginTick line s).pins = s.pins := rfl
@[simp] theorem beginTick_trace (line : Level) : (beginTick line s).trace = s.trace.tail := rfl
@[simp] theorem beginTick_net (line : Level) : (beginTick line s).net = line := rfl
@[simp] theorem beginTick_text (line : Level) : (beginTick line s).text = s.text := rfl
@[simp] theorem beginTick_textReady (line : Level) :
    (beginTick line s).textReady = s.textReady := rfl
@[simp] theorem beginTick_ephem (line : Level) : (beginTick line s).ephem = s.ephem := rfl

/-! ### `endTick` -/

@[simp] theorem endTick_prevLevel : (endTick s).prevLevel = s.prevLevel := rfl
@[simp] theorem endTick_tEdge : (endTick s).tEdge = s.tEdge := rfl
@[simp] theorem endTick_linkState : (endTick s).linkState = s.linkState := rfl
@[simp] theorem endTick_bitIdx : (endTick s).bitIdx = s.bitIdx := rfl
@[simp] theorem endTick_byteIdx : (endTick s).byteIdx = s.byteIdx := rfl
@[simp] theorem endTick_curByte : (endTick s).curByte = s.curByte := rfl
@[simp] theorem endTick_pkt : (endTick s).pkt = s.pkt := rfl
@[simp] theorem endTick_qBuf : (endTick s).qBuf = s.qBuf := rfl
@[simp] theorem endTick_qLen : (endTick s).qLen = s.qLen := rfl
@[simp] theorem endTick_txbuf : (endTick s).txbuf = s.txbuf := rfl
@[simp] theorem endTick_rxPayload : (endTick s).rxPayload = s.rxPayload := rfl
@[simp] theorem endTick_rxValid : (endTick s).rxValid = s.rxValid := rfl
@[simp] theorem endTick_outFlags : (endTick s).outFlags = s.outFlags := rfl
@[simp] theorem endTick_peerFlags : (endTick s).peerFlags = s.peerFlags := rfl
@[simp] theorem endTick_hdrA : (endTick s).hdrA = s.hdrA := rfl
@[simp] theorem endTick_hdrARx : (endTick s).hdrARx = s.hdrARx := rfl
@[simp] theorem endTick_rbVec : (endTick s).rbVec = s.rbVec := rfl
@[simp] theorem endTick_diag : (endTick s).diag = s.diag := rfl
@[simp] theorem endTick_cmdOk : (endTick s).cmdOk = s.cmdOk := rfl
@[simp] theorem endTick_cmdResult : (endTick s).cmdResult = s.cmdResult := rfl
@[simp] theorem endTick_txState : (endTick s).txState = s.txState := rfl
@[simp] theorem endTick_txSlot : (endTick s).txSlot = s.txSlot := rfl
@[simp] theorem endTick_txrSeen : (endTick s).txrSeen = s.txrSeen := rfl
@[simp] theorem endTick_idleCtr : (endTick s).idleCtr = s.idleCtr := rfl
@[simp] theorem endTick_segs : (endTick s).segs = s.segs := rfl
@[simp] theorem endTick_segRem : (endTick s).segRem = s.segRem := rfl
@[simp] theorem endTick_injState : (endTick s).injState = s.injState := rfl
@[simp] theorem endTick_injCtr : (endTick s).injCtr = s.injCtr := rfl
@[simp] theorem endTick_cfg : (endTick s).cfg = s.cfg := rfl
@[simp] theorem endTick_pins : (endTick s).pins = s.pins := rfl
@[simp] theorem endTick_trace : (endTick s).trace = s.trace := rfl
@[simp] theorem endTick_net : (endTick s).net = s.net := rfl
@[simp] theorem endTick_text : (endTick s).text = s.text := rfl
@[simp] theorem endTick_textReady : (endTick s).textReady = s.textReady := rfl
@[simp] theorem endTick_ephem : (endTick s).ephem = .empty := rfl

end Sys2Proof.Machine
end

