-- ==== Sys2Proof/Laws/Ops.lean ====
section
/-! SUPPORT. For each shared operation, once, everything it can do. Later proofs cite these lemmas and do not
unfold the operations. -/

namespace Sys2Proof.Machine

open Sys2Proof

/-! ### Outcomes -/

@[simp] theorem andThen_next (s : State) (f : State → Outcome) : andThen (.next s) f = f s := rfl

@[simp] theorem andThen_fault (r : Fault) (f : State → Outcome) : andThen (.fault r) f = .fault r := rfl

@[simp] theorem andThen_refused (r : Refusal) (f : State → Outcome) :
    andThen (.refused r) f = .refused r := rfl

theorem andThen_eq_next {o : Outcome} {f : State → Outcome} {t : State} :
    andThen o f = .next t ↔ ∃ s, o = .next s ∧ f s = .next t := by
  cases o <;> simp

/-- Every operation of the table has a next state in every state: nothing in the block traps or stops
(00_scope.md R12). -/
theorem exec_next (i : Instr) (s : State) : ∃ t, exec i s = .next t := by
  cases i
  case reset f => cases f <;> exact ⟨_, rfl⟩
  case one f => cases f <;> exact ⟨_, rfl⟩
  case zero f => cases f <;> exact ⟨_, rfl⟩
  case byte f => cases f <;> exact ⟨_, rfl⟩
  case packet f => cases f <;> exact ⟨_, rfl⟩
  case burst f => cases f <;> exact ⟨_, rfl⟩
  case hostReady f => cases f <;> exact ⟨_, rfl⟩
  case dataAvail f => cases f <;> exact ⟨_, rfl⟩
  case busAvail f => cases f <;> exact ⟨_, rfl⟩
  case errorHost f => cases f <;> exact ⟨_, rfl⟩
  case txReady f => cases f <;> exact ⟨_, rfl⟩
  case readyForText f => cases f <;> exact ⟨_, rfl⟩
  case timerRequest f => cases f <;> exact ⟨_, rfl⟩
  case errorRemote f => cases f <;> exact ⟨_, rfl⟩
  case isInit f => cases f <;> exact ⟨_, rfl⟩
  case parCheck f => cases f <;> exact ⟨_, rfl⟩
  case rxInject f => cases f <;> exact ⟨_, rfl⟩
  case rxReply f => cases f <;> exact ⟨_, rfl⟩
  all_goals exact ⟨_, rfl⟩

/-! ### Host port -/

theorem enqueue_cases (len : Nat) (data : List Byte) (s : State) :
    (sendAccepted len s ∧ enqueue len data s =
      { s with qBuf := pad10 (data.take len), qLen := len, cmdOk := true, cmdResult := false }) ∨
    (¬ sendAccepted len s ∧ enqueue len data s = { s with cmdOk := false, cmdResult := false }) := by
  by_cases h : sendAccepted len s
  · exact .inl ⟨h, if_pos h⟩
  · exact .inr ⟨h, if_neg h⟩

/-! ### PulseClock -/

theorem clockStep_cases (line : Level) (s : State) :
    (line = s.prevLevel ∧
      clockStep line s = { s with tEdge := sat s.cfg (s.tEdge + 1), ephem := .edge .none }) ∨
    (line = .high ∧ s.prevLevel = .low ∧
      clockStep line s = { s with prevLevel := .high, tEdge := 1, ephem := .edge (.rising s.tEdge) }) ∨
    (line = .low ∧ s.prevLevel = .high ∧
      clockStep line s =
        { s with prevLevel := .low, tEdge := 1, ephem := .edge (.falling s.tEdge) }) := by
  cases line <;> cases h : s.prevLevel <;> simp [clockStep, edgeOf, h]

/-! ### Player -/

theorem sampleOverlay_cases (line : Level) (s : State) :
    sampleOverlay line s = s ∨
    ∃ n i k rest, s.segs = .zs n i k :: rest ∧ n = k + s.segRem ∧
      sampleOverlay line s = { s with rbVec := setBitTo s.rbVec i (levelBit line) } := by
  unfold sampleOverlay
  split
  · split
    · exact .inr ⟨_, _, _, _, ‹_›, ‹_›, rfl⟩
    · exact .inl rfl
  · exact .inl rfl

theorem advancePlayer_cases (s : State) :
    (s.segs = [] ∧ advancePlayer s = s) ∨
    (s.segs ≠ [] ∧ 1 < s.segRem ∧ advancePlayer s = { s with segRem := s.segRem - 1 }) ∨
    (∃ g, s.segs = [g] ∧ s.segRem ≤ 1 ∧ advancePlayer s = { s with segs := [] }) ∨
    (∃ g h rest, s.segs = g :: h :: rest ∧ s.segRem ≤ 1 ∧
      advancePlayer s = { s with segs := h :: rest, segRem := h.length }) := by
  rcases hs : s.segs with _ | ⟨g, _ | ⟨h, rest⟩⟩
  · exact .inl ⟨rfl, by simp [advancePlayer, hs]⟩
  · by_cases hr : 1 < s.segRem
    · exact .inr (.inl ⟨by simp, hr, by simp [advancePlayer, hs, hr]⟩)
    · exact .inr (.inr (.inl ⟨g, rfl, by omega, by simp [advancePlayer, hs, hr]⟩))
  · by_cases hr : 1 < s.segRem
    · exact .inr (.inl ⟨by simp, hr, by simp [advancePlayer, hs, hr]⟩)
    · exact .inr (.inr (.inr ⟨g, h, rest, rfl, by omega, by simp [advancePlayer, hs, hr]⟩))

/-! ### Assembler and completion -/

theorem appendBit_cases (b : Bool) (s : State) :
    (s.bitIdx < 7 ∧ appendBit b s = { s with curByte := withBit b s, bitIdx := s.bitIdx + 1 }) ∨
    (7 ≤ s.bitIdx ∧ appendBit b s =
      { s with pkt := putByte s.pkt s.byteIdx (withBit b s), byteIdx := s.byteIdx + 1, bitIdx := 0,
               curByte := 0x00#8 }) := by
  by_cases h : s.bitIdx < 7
  · exact .inl ⟨h, by simp [appendBit, h]⟩
  · exact .inr ⟨by omega, by simp [appendBit, h]⟩

theorem toRestart_cases (s : State) :
    (s.pins.role = .rx ∧ toRestart s = { s with linkState := .awaitingSync }) ∨
    (s.pins.role = .tx ∧ toRestart s = { s with txState := .idle, idleCtr := 0 }) := by
  cases h : s.pins.role
  · exact .inl ⟨rfl, by simp [toRestart, h]⟩
  · exact .inr ⟨rfl, by simp [toRestart, h]⟩

theorem replyIfGranted_cases (s : State) :
    (replyGranted s ∧ replyIfGranted s = startReply s) ∨
    (¬ replyGranted s ∧ replyIfGranted s = s) := by
  by_cases h : replyGranted s
  · exact .inl ⟨h, if_pos h⟩
  · exact .inr ⟨h, if_neg h⟩

theorem finishPacket_cases (s : State) :
    (gateOpen s = false ∧ finishPacket s = toRestart { s with byteIdx := 0 }) ∨
    (gateOpen s = true ∧ packetParityOk s = false ∧
      finishPacket s = toRestart { s with diag := s.diag ||| parityErr, byteIdx := 0 }) ∨
    (gateOpen s = true ∧ packetParityOk s = true ∧
      finishPacket s = toRestart { replyIfGranted (deliverPacket s) with byteIdx := 0 }) := by
  cases hg : gateOpen s
  · exact .inl ⟨rfl, by simp [finishPacket, hg, raise]⟩
  · cases hp : packetParityOk s
    · exact .inr (.inl ⟨rfl, rfl, by simp [finishPacket, hg, hp, raise, mark, conditionMarks]⟩)
    · exact .inr (.inr ⟨rfl, rfl, by simp [finishPacket, hg, hp]⟩)

theorem finishBurst_cases (s : State) :
    (burstParityOk s = false ∧
      finishBurst s = toRestart { s with diag := s.diag ||| parityErr, byteIdx := 0 }) ∨
    (burstParityOk s = true ∧ finishBurst s = toRestart { deliverBurst s with byteIdx := 0 }) := by
  cases hp : burstParityOk s
  · exact .inl ⟨rfl, by simp [finishBurst, hp, raise, mark, conditionMarks]⟩
  · exact .inr ⟨rfl, by simp [finishBurst, hp]⟩

theorem completeIfFull_cases (s : State) :
    (s.pins.role = .rx ∧ s.byteIdx = frameLen s ∧ completeIfFull s = finishPacket s) ∨
    (s.pins.role = .tx ∧ s.txState = .readBack ∧ s.byteIdx = frameLen s ∧
      completeIfFull s = finishBurst s) ∨
    ((s.byteIdx = frameLen s → s.pins.role = .tx ∧ s.txState ≠ .readBack) ∧
      completeIfFull s = s) := by
  by_cases h : s.byteIdx = frameLen s
  · cases hr : s.pins.role
    · exact .inl ⟨rfl, h, by simp only [completeIfFull, h, hr]; rfl⟩
    · by_cases ht : s.txState = .readBack
      · exact .inr (.inl ⟨rfl, ht, h, by simp [completeIfFull, h, hr, ht]⟩)
      · exact .inr (.inr ⟨fun _ => ⟨rfl, ht⟩, by simp [completeIfFull, h, hr, ht]⟩)
  · exact .inr (.inr ⟨fun h' => absurd h' h, by simp [completeIfFull, h]⟩)

theorem assembleBit_cases (b : Bool) (s : State) :
    (s.byteIdx < frameLen s ∧ assembleBit b s = completeIfFull (appendBit b s)) ∨
    (frameLen s ≤ s.byteIdx ∧ assembleBit b s = s) := by
  by_cases h : s.byteIdx < frameLen s
  · exact .inl ⟨h, by simp [assembleBit, h]⟩
  · exact .inr ⟨by omega, by simp [assembleBit, h]⟩

/-! ### Conditions -/

@[simp] theorem raise_framingNoise (s : State) : raise .framingNoise s = s := rfl

@[simp] theorem raise_peerNotReady (s : State) :
    raise .peerNotReady s = toRestart { s with byteIdx := 0 } := rfl

@[simp] theorem raise_parityMismatch (s : State) :
    raise .parityMismatch s = toRestart { s with diag := s.diag ||| parityErr, byteIdx := 0 } := rfl

@[simp] theorem raise_prematureReset (s : State) :
    raise .prematureReset s = toRestart { s with
      diag := s.diag ||| conditionMarks s .prematureReset, bitIdx := 0, byteIdx := 0,
      curByte := 0x00#8 } := rfl

@[simp] theorem raise_starvation (s : State) :
    raise .starvation s = toRestart { s with
      diag := s.diag ||| timeoutErr, bitIdx := 0, byteIdx := 0, curByte := 0x00#8 } := rfl

@[simp] theorem raise_readBackAbort (s : State) :
    raise .readBackAbort s = toRestart { s with
      diag := s.diag ||| rbAbortErr, bitIdx := 0, byteIdx := 0, curByte := 0x00#8 } := rfl

/-! ### Receive role -/

theorem armInject_cases (s : State) :
    (injectWanted s ∧ armInject s = { s with injState := .wait, injCtr := s.cfg.injectDelayUs }) ∨
    (¬ injectWanted s ∧ armInject s = s) := by
  by_cases h : injectWanted s
  · exact .inl ⟨h, if_pos h⟩
  · exact .inr ⟨h, if_neg h⟩

theorem injectTick_cases (line : Level) (s : State) :
    (s.injState = .off ∧ injectTick line s = s) ∨
    (s.injState ≠ .off ∧ 1 < s.injCtr ∧ injectTick line s = { s with injCtr := s.injCtr - 1 }) ∨
    (s.injState = .wait ∧ s.injCtr ≤ 1 ∧ line = .low ∧
      injectTick line s = { s with injState := .drive, injCtr := s.cfg.injectUs }) ∨
    ((s.injState = .wait ∧ line = .high ∨ s.injState = .drive) ∧ s.injCtr ≤ 1 ∧
      injectTick line s = { s with injState := .off }) := by
  cases hi : s.injState
  · exact .inl ⟨rfl, by simp [injectTick, hi]⟩
  · by_cases h : 1 < s.injCtr
    · exact .inr (.inl ⟨by simp, h, by simp [injectTick, hi, h]⟩)
    · cases line
      · exact .inr (.inr (.inl ⟨rfl, by omega, rfl, by simp [injectTick, hi, h]⟩))
      · exact .inr (.inr (.inr ⟨.inl ⟨rfl, rfl⟩, by omega, by simp [injectTick, hi, h]⟩))
  · by_cases h : 1 < s.injCtr
    · exact .inr (.inl ⟨by simp, h, by simp [injectTick, hi, h]⟩)
    · exact .inr (.inr (.inr ⟨.inr rfl, by omega, by simp [injectTick, hi, h]⟩))

/-! ### Transmit role -/

theorem startCycle_cases (s : State) :
    (cycleDue s ∧ startCycle s =
      { s with rbVec := 0x00#8, txrSeen := false, txSlot := 0, idleCtr := 0,
               segs := waveReset s.cfg, segRem := s.cfg.resetTxLowUs, txState := .play }) ∨
    (¬ cycleDue s ∧ startCycle s = { s with idleCtr := sat s.cfg (s.idleCtr + 1) }) := by
  by_cases h : cycleDue s
  · exact .inl ⟨h, if_pos h⟩
  · exact .inr ⟨h, if_neg h⟩

theorem dequeue_cases (s : State) :
    (0 < s.qLen ∧ dequeue s = { s with txbuf := queuedPayload s, qLen := 0 }) ∨
    (s.qLen = 0 ∧ dequeue s = { s with txbuf := zeros 10 }) := by
  by_cases h : 0 < s.qLen
  · exact .inl ⟨h, by simp [dequeue, h]⟩
  · exact .inr ⟨by omega, by simp [dequeue, h]⟩

theorem slotAction_cases (s : State) :
    (s.txSlot = 0 ∧ slotAction s = playHeader s) ∨
    (s.txSlot = 1 ∧ slotAction s = playFlags (foldOverlay s)) ∨
    (s.txSlot = 2 ∧ slotAction s = playPayload (dequeue s)) ∨
    (3 ≤ s.txSlot ∧ s.txSlot ≤ 11 ∧ slotAction s = playPayload s) ∨
    (s.txSlot = 12 ∧ slotAction s = playParity s) ∨
    (s.txSlot = 13 ∧ s.txrSeen = true ∧ slotAction s = enterReadBack s) ∨
    (s.txSlot = 13 ∧ s.txrSeen = false ∧ slotAction s = endCycle s) ∨
    (14 ≤ s.txSlot ∧ slotAction s = s) := by
  unfold slotAction
  split <;> rename_i h
  · exact .inl ⟨h, rfl⟩
  · exact .inr (.inl ⟨h, rfl⟩)
  · exact .inr (.inr (.inl ⟨h, rfl⟩))
  · exact .inr (.inr (.inr (.inr (.inl ⟨h, rfl⟩))))
  · cases hx : s.txrSeen
    · exact .inr (.inr (.inr (.inr (.inr (.inr (.inl ⟨h, rfl, rfl⟩))))))
    · exact .inr (.inr (.inr (.inr (.inr (.inl ⟨h, rfl, rfl⟩)))))
  · rename_i h0 h1 h2 h12
    have h0' : s.txSlot ≠ 0 := h0
    have h1' : s.txSlot ≠ 1 := h1
    have h2' : s.txSlot ≠ 2 := h2
    have h12' : s.txSlot ≠ 12 := h12
    have h13' : s.txSlot ≠ 13 := h
    by_cases hk : s.txSlot < 12
    · exact .inr (.inr (.inr (.inl ⟨by omega, by omega, if_pos hk⟩)))
    · exact .inr (.inr (.inr (.inr (.inr (.inr (.inr ⟨by omega, if_neg hk⟩))))))

theorem listEmptyAction_cases (s : State) :
    (s.pins.role = .rx ∧ listEmptyAction s = { s with txState := .idle }) ∨
    (s.pins.role = .tx ∧ listEmptyAction s = slotAction s) := by
  cases h : s.pins.role
  · exact .inl ⟨rfl, by simp [listEmptyAction, h, endReply]⟩
  · exact .inr ⟨rfl, by simp [listEmptyAction, h]⟩

theorem actIfEmpty_cases (s : State) :
    (s.segs = [] ∧ actIfEmpty s = listEmptyAction s) ∨ (s.segs ≠ [] ∧ actIfEmpty s = s) := by
  by_cases h : s.segs = []
  · exact .inl ⟨h, by simp [actIfEmpty, h]⟩
  · exact .inr ⟨h, by simp [actIfEmpty, h]⟩

theorem playTick_cases (line : Level) (s : State) :
    (s.txState = .play ∧ s.segs ≠ [] ∧
      playTick line s = actIfEmpty (advancePlayer (sampleOverlay line s))) ∨
    ((s.txState ≠ .play ∨ s.segs = []) ∧ playTick line s = s) := by
  by_cases h : s.txState = .play ∧ s.segs ≠ []
  · exact .inl ⟨h.1, h.2, if_pos h⟩
  · refine .inr ⟨?_, if_neg h⟩
    by_cases hp : s.txState = .play
    · exact .inr (Classical.byContradiction fun hs => h ⟨hp, hs⟩)
    · exact .inl hp

/-! ### Consumers of a symbol -/

theorem consumeBit_cases (b : Bool) (s : State) :
    (((listening s ∧ s.linkState = .gatheringPacket) ∨ readingBack s) ∧
      consumeBit b s = assembleBit b s) ∨
    (¬ (listening s ∧ s.linkState = .gatheringPacket) ∧ ¬ readingBack s ∧ consumeBit b s = s) := by
  unfold consumeBit
  split
  · exact .inl ⟨.inl ‹_›, rfl⟩
  · split
    · exact .inl ⟨.inr ‹_›, rfl⟩
    · exact .inr ⟨‹_›, ‹_›, rfl⟩

theorem consumeReset_cases (s : State) :
    (listening s ∧ s.linkState = .awaitingSync ∧ consumeReset s = syncLink s) ∨
    (listening s ∧ s.linkState = .gatheringPacket ∧ consumeReset s = raise .prematureReset s) ∨
    (readingBack s ∧ consumeReset s = raise .readBackAbort s) ∨
    (consumeReset s = s ∧ ¬ readingBack s ∧ (listening s → s.linkState = .resetDetected)) := by
  by_cases h : listening s
  · have hn : ¬ readingBack s := fun hr => by rw [readingBack, h.1] at hr; exact absurd hr.1 (by decide)
    cases hl : s.linkState
    · exact .inl ⟨h, rfl, by simp only [consumeReset, if_pos h, hl]⟩
    · exact .inr (.inr (.inr ⟨by simp only [consumeReset, if_pos h, hl], hn, fun _ => rfl⟩))
    · exact .inr (.inl ⟨h, rfl, by simp only [consumeReset, if_pos h, hl]⟩)
  · by_cases hr : readingBack s
    · exact .inr (.inr (.inl ⟨hr, by simp only [consumeReset, if_neg h, if_pos hr]⟩))
    · exact .inr (.inr (.inr ⟨by simp only [consumeReset, if_neg h, if_neg hr], hr, fun h' => absurd h' h⟩))

theorem consumeFalling_cases (s : State) :
    (listening s ∧ s.linkState = .resetDetected ∧ consumeFalling s = startGathering s) ∨
    (¬ (listening s ∧ s.linkState = .resetDetected) ∧ consumeFalling s = s) := by
  unfold consumeFalling
  split
  · rename_i h; exact .inl ⟨h.1, h.2, rfl⟩
  · exact .inr ⟨‹_›, rfl⟩

/-! ### The surrounding software -/

theorem arrange_perm (place : Nat → Nat) (items : List Byte) : (arrange place items).Perm items := by
  induction items with
  | nil => exact .nil
  | cons b rest ih =>
    refine List.perm_middle.trans (.cons b ?_)
    rw [List.take_append_drop]
    exact ih

/-- A text packet carries its id first, then the fragment, the tag and at most one byte more, in some
order. -/
theorem textPayload_items (t : TextSession) (tag : ChunkTag) (chunk : List Byte) :
    ∃ items spare, textPayload t tag chunk = 0xC8#8 :: items ∧ spare.length ≤ 1 ∧
      items.Perm (chunk ++ chunkTagByte tag :: spare) :=
  ⟨_, _, rfl, by split <;> simp, arrange_perm _ _⟩

theorem textPayload_length (t : TextSession) (tag : ChunkTag) (chunk : List Byte) :
    (textPayload t tag chunk).length = chunk.length + 2 ∨
    (textPayload t tag chunk).length = chunk.length + 3 := by
  obtain ⟨items, spare, h, hl, hp⟩ := textPayload_items t tag chunk
  have := hp.length_eq
  rw [h]
  simp only [List.length_cons, List.length_append] at *
  omega

theorem chunkTagByte_ne : chunkTagByte .append ≠ chunkTagByte .finish := by
  intro h
  have h1 := congrArg BitVec.toNat h
  have h2 := Config.endTagGap.isLt
  have h3 := Config.appendTag.isLt
  simp only [chunkTagByte, BitVec.toNat_add, BitVec.toNat_ofNat] at h1
  omega

theorem sendChunk_cases (c : ChunkTag × List Byte × TextSession) (s : State) :
    (sendAccepted (textPayload s.text c.1 c.2.1).length s ∧ sendChunk c s =
      { s with
        qBuf := pad10 (textPayload s.text c.1 c.2.1), qLen := (textPayload s.text c.1 c.2.1).length,
        cmdOk := true, cmdResult := false, text := c.2.2, textReady := false,
        ephem := .chunkDone (decide (c.1 = .finish)) }) ∨
    (¬ sendAccepted (textPayload s.text c.1 c.2.1).length s ∧ sendChunk c s =
      { s with
        cmdOk := false, cmdResult := false, textReady := false,
        ephem := .chunkDone (Config.refusedChunkDone s.text.text s.text.cursor) }) := by
  by_cases h : sendAccepted (textPayload s.text c.1 c.2.1).length s
  · exact .inl ⟨h, by
      simp only [sendChunk, enqueue, if_pos h, respond, List.take_length]⟩
  · exact .inr ⟨h, by simp only [sendChunk, enqueue, if_neg h, respond]⟩

theorem keptText_spec (t : List Byte) :
    (keptText t).length ≤ Config.maxTextLen ∧ (t.length ≤ Config.maxTextLen → keptText t = t) := by
  unfold keptText
  split
  · exact ⟨List.length_take_le _ _, fun h => by omega⟩
  · exact ⟨by omega, fun _ => rfl⟩

theorem setText_cases (t : List Byte) (s : State) :
    (s.pins.role = .tx ∧ keptText t ≠ [] ∧ setText t s = { s with text := ⟨keptText t, 0, true⟩ }) ∨
    (¬ (s.pins.role = .tx ∧ keptText t ≠ []) ∧ setText t s = s) := by
  unfold setText
  split
  · rename_i h; exact .inl ⟨h.1, h.2, rfl⟩
  · exact .inr ⟨‹_›, rfl⟩

theorem takeNewText_cases (inp : TickInput) (s : State) :
    (∃ t, inp.host = .newText t ∧ takeNewText inp s = setText t s) ∨
    ((∀ t, inp.host ≠ .newText t) ∧ takeNewText inp s = s) := by
  unfold takeNewText
  split
  · exact .inl ⟨_, ‹_›, rfl⟩
  · rename_i h; exact .inr ⟨h, rfl⟩

theorem execChunkNext_cases (s : State) :
    (chunkerInvoked s ∧ exec .chunkNext s = .next (sendChunk (nextChunk s.cfg s.text) s)) ∨
    (¬ chunkerInvoked s ∧ exec .chunkNext s = .next s) := by
  simp only [exec, execChunkNext]
  split
  · exact .inl ⟨‹_›, rfl⟩
  · exact .inr ⟨‹_›, rfl⟩

/-! ### The tick -/

/-- A step that gives a next state: a hardware reset, or a host phase followed by the engine's
operations. -/
theorem step_next {s t : State} (h : step s = .next t) :
    s.cfg.wellFormed ∧ ∃ line, lineLevel (nextInput s) s = some line ∧
      (((nextInput s).rst = true ∧ t = takeNewText (nextInput s)
          (hardwareReset (nextInput s).pins (beginTick line s))) ∨
       ((nextInput s).rst = false ∧ ¬ pinsChange (nextInput s) s ∧
         ∃ u, hostPhase (nextInput s) (clearPulses (beginTick line s)) = .next u ∧
           engine s.txState line u = .next t)) := by
  unfold step stepTick at h
  split at h
  · rename_i hw
    refine ⟨hw, ?_⟩
    split at h
    · rename_i line hl
      refine ⟨line, hl, ?_⟩
      unfold tick at h
      split at h
      · exact .inl ⟨‹_›, by injection h with h; exact h.symm⟩
      · split at h
        · cases h
        · obtain ⟨u, hu, he⟩ := andThen_eq_next.1 h
          exact .inr ⟨by simp_all, ‹_›, u, hu, he⟩
    · cases h
  · cases h

end Sys2Proof.Machine
end

