-- ==== Sys2Proof/Tests/Slice0.lean ====
section
/-! SUPPORT. The model's own tests. Words are written out from the encodings of 30_encoding.md; expected results
are the worked examples and corner cases of the rules named in each comment. The witnesses at the end show, for
every statement with hypotheses, a concrete state and operands that meet them. -/

namespace Sys2Proof.Tests

open Sys2Proof Sys2Proof.Machine

/-! ## Helpers -/

/-- The outcome is a next state with this property. -/
def gives (o : Outcome) (p : State → Bool) : Bool :=
  match o with
  | .next s => p s
  | _ => false

/-- The outcome is this fault. -/
def faults (o : Outcome) (r : Fault) : Bool :=
  match o with
  | .fault q => decide (q = r)
  | _ => false

/-- The outcome is this refusal. -/
def refuses (o : Outcome) (r : Refusal) : Bool :=
  match o with
  | .refused q => decide (q = r)
  | _ => false

/-- The word decodes to the operation, with nothing left over. -/
def reads (word : List Byte) (i : Instr) : Bool :=
  match decode word with
  | .ok (j, []) => decide (j = i)
  | _ => false

/-- The word is rejected for this reason. -/
def rejects (word : List Byte) (why : DecodeError) : Bool :=
  match decode word with
  | .error e => decide (e = why)
  | _ => false

def zero9 : List Byte := List.replicate 9 0x00#8
def zero10 : List Byte := List.replicate 10 0x00#8
def one9 : List Byte := [0x01#8, 0x02#8, 0x03#8, 0x04#8, 0x05#8, 0x06#8, 0x07#8, 0x08#8, 0x09#8]
def one10 : List Byte := one9 ++ [0x0A#8]

/-- The packet of 41_packet_assembler.md R144's worked example. -/
def packetExample : Vector Byte 13 :=
  ⟨#[0x00#8, 0x80#8, 0xA0#8, 0x00#8, 0x00#8, 0x12#8, 0x00#8, 0x00#8, 0x00#8, 0x00#8, 0x00#8, 0x00#8,
    0xB2#8], rfl⟩
/-- The burst of 46_link_tx.md R246's worked example. -/
def burstExample : Vector Byte 13 :=
  ⟨#[0xC8#8, 0x01#8, 0x02#8, 0x00#8, 0x00#8, 0x00#8, 0x00#8, 0x00#8, 0x00#8, 0x00#8, 0xCB#8, 0x00#8,
    0x00#8], rfl⟩
/-- `q_buf` of 45_link_rx.md R216's worked example. -/
def queueExample : Vector Byte 10 := pad10 [0xC8#8, 0x01#8, 0x02#8]

def rx : State := State.reset
def rxPins : Pins := ⟨.rx, false, true, true⟩
def txPins : Pins := ⟨.tx, true, false, false⟩
def rd : State := { rx with linkState := .resetDetected, tEdge := 10 }
def gp : State := { rx with linkState := .gatheringPacket, prevLevel := .low, tEdge := 10 }
/-- All thirteen bytes of the example are gathered. -/
def full : State := { gp with pkt := packetExample, byteIdx := 13 }
/-- The same with `BUS_AVAIL` set, the reply enabled and a buffer queued. -/
def granted : State :=
  { full with pkt := putByte packetExample 1 0x90#8, pins := rxPins, qBuf := queueExample, qLen := 3 }
def tx : State := { State.reset with pins := txPins }
/-- The end of slot `k`: one tick of its last segment is left. -/
def slot (k : Nat) : State :=
  { tx with txState := .play, txSlot := k, segs := [.d1 80], segRem := 1 }
/-- Slot `k` has ended and its action has not run. -/
def ended (k : Nat) : State := { tx with txState := .play, txSlot := k, segs := [] }
def rb : State := { tx with txState := .readBack, prevLevel := .low, tEdge := 10 }
def rbFull : State := { rb with pkt := burstExample, byteIdx := 11 }
/-- A session of eight bytes with an opportunity. -/
def chunkOpen : State :=
  { tx with text := ⟨List.replicate 8 0x41#8, 0, true⟩, textReady := true }
/-- An overlay cell whose sample is due. -/
def overlay : State :=
  { tx with txState := .play, txSlot := 1, segs := [.zs 220 4 110, .d1 18], segRem := 110 }

/-! ## WellFormed refuses an ill-formed term for each check -/

theorem test_wf_decoded_zero : (Instr.one (.decoded 0)).wellFormed = false := by decide
theorem test_wf_decoded_long : (Instr.zero (.decoded 65536)).wellFormed = false := by decide
theorem test_wf_reset_overlay : (Instr.reset (.overlay 0)).wellFormed = false := by decide
theorem test_wf_one_overlay : (Instr.one (.overlay 0)).wellFormed = false := by decide
theorem test_wf_zero_overlay : (Instr.zero (.overlay 7)).wellFormed = true := by decide
theorem test_wf_overlay_index : (Instr.zero (.overlay 8)).wellFormed = false := by decide
theorem test_wf_packet : (Instr.packet (.sent 0#8 0#8 zero9 0#8)).wellFormed = false := by decide
theorem test_wf_burst : (Instr.burst (.sent one9)).wellFormed = false := by decide
theorem test_wf_command : (Instr.cmdTrack .enqueue zero10).wellFormed = false := by decide
theorem test_wf_send_length : (Instr.send 16 zero10).wellFormed = false := by decide
theorem test_wf_send_data : (Instr.send 1 zero9).wellFormed = false := by decide
theorem test_wf_falling : (Instr.falling 65536).wellFormed = false := by decide
theorem test_wf_fold : (Instr.parFold (List.replicate 256 0#8)).wellFormed = false := by
  decide +kernel
theorem test_wf_config : Config.default.wellFormed := by decide
theorem test_wf_config_window : ¬ { Config.default with sUs := 100 }.wellFormed := by decide
theorem test_wf_config_range : ¬ { Config.default with pollPeriodUs := 65536 }.wellFormed := by decide
theorem test_wf_config_length : ¬ { Config.default with pktLen := 12 }.wellFormed := by decide

/-! ## Decoding: every operation from a word written out

Code byte, format byte (1 HOSTOP, 2 CMDID, 3 HFLAG, 4 RFLAG, 5 PULSE, 6 frames, 7 EVENT), operands. -/

/-- `cmd_op`, format 1, `cmd_arg`, `cmd_len`, `cmd_data` (30_encoding.md R91). -/
theorem test_decode_hostop :
    reads ([0x00#8, 0x01#8, 0x55#8, 0x0A#8] ++ one10) .hnop ∧
    reads ([0x01#8, 0x01#8, 0x00#8, 0x04#8] ++ one10) (.send 4 one10) ∧
    reads ([0x02#8, 0x01#8, 0x0F#8, 0x00#8] ++ zero10) (.take 0x0F#8) ∧
    reads ([0x03#8, 0x01#8, 0xFF#8, 0x00#8] ++ zero10) (.setf 0xFF#8) ∧
    reads ([0x04#8, 0x01#8, 0x10#8, 0x00#8] ++ zero10) (.clrf 0x10#8) ∧
    reads ([0x05#8, 0x01#8, 0xFE#8, 0x00#8] ++ zero10) (.wra 0xFE#8) ∧
    reads ([0x06#8, 0x01#8, 0x12#8, 0x00#8] ++ zero10) (.clrd 0x12#8) ∧
    reads ([0x07#8, 0x01#8, 0x00#8, 0x00#8] ++ zero10) .hostopReserved7 := by decide

/-- The id, format 2, the leg (0 enqueue, 1 send, 2 deliver), payload bytes 1 to 9 (30_encoding.md R90). -/
theorem test_decode_cmdid :
    reads ([0x01#8, 0x02#8, 0x00#8] ++ one9) (.cmdCapabilities .enqueue one9) ∧
    reads ([0x03#8, 0x02#8, 0x01#8] ++ one9) (.cmdDisplayMode .send one9) ∧
    reads ([0x05#8, 0x02#8, 0x02#8] ++ one9) (.cmdBacklight .deliver one9) ∧
    reads ([0x40#8, 0x02#8, 0x00#8] ++ one9) (.cmdVolume .enqueue one9) ∧
    reads ([0x41#8, 0x02#8, 0x01#8] ++ one9) (.cmdPlayMode .send one9) ∧
    reads ([0x42#8, 0x02#8, 0x02#8] ++ one9) (.cmdRecMode .deliver one9) ∧
    reads ([0x43#8, 0x02#8, 0x00#8] ++ one9) (.cmdBattery .enqueue one9) ∧
    reads ([0x46#8, 0x02#8, 0x01#8] ++ one9) (.cmdEq .send one9) ∧
    reads ([0x47#8, 0x02#8, 0x02#8] ++ one9) (.cmdAlarm .deliver one9) ∧
    reads ([0xA0#8, 0x02#8, 0x00#8] ++ one9) (.cmdTrack .enqueue one9) ∧
    reads ([0xA1#8, 0x02#8, 0x01#8] ++ one9) (.cmdPlayState .send one9) ∧
    reads ([0xA2#8, 0x02#8, 0x02#8] ++ one9) (.cmdDisplay .deliver one9) ∧
    reads ([0xC8#8, 0x02#8, 0x00#8] ++ one9) (.cmdText .enqueue one9) ∧
    reads ([0x18#8, 0x02#8, 0x01#8] ++ one9) (.cmdRequestWriteAddress .send one9) ∧
    reads ([0xD8#8, 0x02#8, 0x02#8] ++ one9) (.cmdTrackCount .deliver one9) ∧
    reads ([0xD9#8, 0x02#8, 0x00#8] ++ one9) (.cmdSetTrack .enqueue one9) := by decide

/-- The flag's mask, format 3 or 4, the form (0 set, 1 clear, 2 seen, 3 take) (30_encoding.md R88, R89). -/
theorem test_decode_flags :
    reads [0x80#8, 0x03#8, 0x00#8] (.hostReady .set) ∧
    reads [0x01#8, 0x03#8, 0x01#8] (.dataAvail .clear) ∧
    reads [0x10#8, 0x03#8, 0x02#8] (.busAvail .seen) ∧
    reads [0x40#8, 0x03#8, 0x03#8] (.errorHost .take) ∧
    reads [0x10#8, 0x04#8, 0x00#8] (.txReady .set) ∧
    reads [0x02#8, 0x04#8, 0x01#8] (.readyForText .clear) ∧
    reads [0x04#8, 0x04#8, 0x02#8] (.timerRequest .seen) ∧
    reads [0x40#8, 0x04#8, 0x03#8] (.errorRemote .take) ∧
    reads [0x80#8, 0x04#8, 0x00#8] (.isInit .set) := by decide

/-- The symbol (0 ZERO, 1 ONE, 2 RESET), format 5, the form, the LOW time low byte first (1100 = 0x044C) or the
overlay cell (30_encoding.md R81, R82). -/
theorem test_decode_pulse :
    reads [0x02#8, 0x05#8, 0x00#8, 0x4C#8, 0x04#8] (.reset (.decoded 1100)) ∧
    reads [0x01#8, 0x05#8, 0x00#8, 0x12#8, 0x00#8] (.one (.decoded 18)) ∧
    reads [0x00#8, 0x05#8, 0x00#8, 0xEE#8, 0x00#8] (.zero (.decoded 238)) ∧
    reads [0x02#8, 0x05#8, 0x01#8] (.reset .transmitted) ∧
    reads [0x00#8, 0x05#8, 0x02#8, 0x07#8] (.zero (.overlay 7)) := by decide

/-- The frame (0 BYTE, 1 PACKET, 2 BURST), format 6, the form, its bytes (30_encoding.md R83 to R85). -/
theorem test_decode_frames :
    reads [0x00#8, 0x06#8, 0x00#8, 0xA0#8, 0xFF#8] (.byte (.sent 0xA0#8 0xFF#8)) ∧
    reads [0x00#8, 0x06#8, 0x01#8, 0xA0#8] (.byte (.received 0xA0#8)) ∧
    reads ([0x01#8, 0x06#8, 0x00#8, 0x37#8, 0x80#8, 0xFF#8] ++ one10)
      (.packet (.sent 0x37#8 0x80#8 one10 0xFF#8)) ∧
    reads [0x01#8, 0x06#8, 0x01#8] (.packet .received) ∧
    reads ([0x02#8, 0x06#8, 0x00#8] ++ one10) (.burst (.sent one10)) ∧
    reads [0x02#8, 0x06#8, 0x01#8] (.burst .received) := by decide

/-- An event has no bit pattern in the spec (30_encoding.md R98): its place among the EVENT rows, format 7, its
operands. -/
theorem test_decode_events :
    reads [0x00#8, 0x07#8, 0x01#8] (.clkStep .high) ∧
    reads [0x01#8, 0x07#8, 0x00#8, 0x01#8] (.falling 256) ∧
    reads [0x02#8, 0x07#8] .asmStart ∧
    reads [0x03#8, 0x07#8, 0x01#8] (.asmBit true) ∧
    reads [0x04#8, 0x07#8] .asmAbandon ∧
    reads [0x05#8, 0x07#8] .asmComplete ∧
    reads [0x06#8, 0x07#8, 0x02#8, 0xA0#8, 0x12#8] (.parFold [0xA0#8, 0x12#8]) ∧
    reads [0x07#8, 0x07#8, 0x01#8] (.parCheck .burst) ∧
    reads [0x08#8, 0x07#8] .parAppend ∧
    reads [0x09#8, 0x07#8, 0x00#8] (.playerStep .low) ∧
    reads [0x0A#8, 0x07#8, 0x03#8] (.hdrDecode .packetByte) ∧
    reads [0x0B#8, 0x07#8] .hdrEncode ∧
    reads [0x0C#8, 0x07#8] .rxSync ∧
    reads [0x0D#8, 0x07#8] .rxStart ∧
    reads [0x0E#8, 0x07#8, 0x00#8] (.rxBit false) ∧
    reads [0x0F#8, 0x07#8] .rxDone ∧
    reads [0x10#8, 0x07#8] .rxResync ∧
    reads [0x11#8, 0x07#8] .rxTimeout := by decide

theorem test_decode_events_more :
    reads [0x12#8, 0x07#8, 0x01#8, 0x00#8] (.rxInject (.tick .low)) ∧
    reads [0x13#8, 0x07#8, 0x01#8] (.rxReply .finish) ∧
    reads [0x14#8, 0x07#8] .txStart ∧
    reads [0x15#8, 0x07#8] .txPreamble ∧
    reads [0x16#8, 0x07#8] .txHdra ∧
    reads [0x17#8, 0x07#8, 0x01#8] (.txOverlay .high) ∧
    reads [0x18#8, 0x07#8] .txFold ∧
    reads [0x19#8, 0x07#8] .txFlags ∧
    reads [0x1A#8, 0x07#8] .txDequeue ∧
    reads [0x1B#8, 0x07#8] .txPayload ∧
    reads [0x1C#8, 0x07#8] .txParity ∧
    reads [0x1D#8, 0x07#8] .txEnd ∧
    reads [0x1E#8, 0x07#8] .rbEnter ∧
    reads [0x1F#8, 0x07#8, 0x01#8] (.rbBit true) ∧
    reads [0x20#8, 0x07#8] .rbDone ∧
    reads [0x21#8, 0x07#8] .rbAbort ∧
    reads [0x22#8, 0x07#8] .rbTimeout ∧
    reads [0x23#8, 0x07#8] .chunkNext := by decide

theorem test_decode_rejects :
    rejects [] .truncated ∧ rejects [0x00#8, 0x08#8] .unknownFormat ∧
    rejects [0x20#8, 0x00#8] .unknownCode ∧ rejects ([0x08#8, 0x01#8, 0x00#8, 0x00#8] ++ zero10) .unknownCode ∧
    rejects ([0x01#8, 0x01#8, 0x00#8, 0x10#8] ++ zero10) .badOperand ∧
    rejects [0x01#8, 0x05#8, 0x00#8, 0x00#8, 0x00#8] .badOperand ∧
    rejects [0x01#8, 0x05#8, 0x02#8, 0x00#8] .badOperand ∧
    rejects [0x24#8, 0x07#8] .unknownCode ∧ rejects [0x80#8, 0x04#8, 0x04#8] .badOperand := by decide

/-- Table words: the code byte alone (30_encoding.md R98), a host code first, then an id, then a flag. -/
theorem test_decode_table_words :
    decodeTableWord 8 0x01 = some (.send 0 zero10) ∧
    decodeTableWord 8 0x07 = some .hostopReserved7 ∧
    decodeTableWord 8 0x18 = some (.cmdRequestWriteAddress .enqueue zero9) ∧
    decodeTableWord 8 0x40 = some (.cmdVolume .enqueue zero9) ∧
    decodeTableWord 8 0xD9 = some (.cmdSetTrack .enqueue zero9) ∧
    decodeTableWord 8 0x10 = some (.busAvail .set) ∧
    decodeTableWord 8 0x80 = some (.hostReady .set) ∧ decodeTableWord 8 0x20 = none := by decide

/-- The bits above a table word are zero, and the next step runs it. -/
theorem test_fetch_word :
    gives (step (rx.withFetchWord 8 0xA0)) (fun t => t.qLen = 10 ∧ t.cmdOk = true) ∧
    gives (step (tx.withFetchWord 8 0x80))
      (fun t => t.outFlags = 0x80#8 ∧ t.cmdOk = true) := by decide

/-! ## One small step of each operation -/

/-- R121: 1300 is inside the window. -/
theorem test_reset_decoded :
    gives (exec (.reset (.decoded 1300)) rx) (fun t => t.linkState = .resetDetected) := by decide
/-- R210: n = 17, diag = 0x12. -/
theorem test_reset_in_packet :
    gives (exec (.reset (.decoded 700)) { gp with byteIdx := 2, bitIdx := 1 })
      (fun t => t.diag = 0x12#8 ∧ t.linkState = .awaitingSync ∧ t.byteIdx = 0) := by decide
/-- R122, R208. -/
theorem test_one_decoded :
    gives (exec (.one (.decoded 99)) gp) (fun t => t.curByte = 0x01#8 ∧ t.bitIdx = 1) := by decide
/-- R123: 1301 is ZERO. -/
theorem test_zero_decoded :
    gives (exec (.zero (.decoded 1301)) { gp with bitIdx := 3, curByte := 0x05#8 })
      (fun t => t.curByte = 0x05#8 ∧ t.bitIdx = 4) := by decide
/-- R166. -/
theorem test_one_transmitted :
    gives (exec (.one .transmitted) tx)
      (fun t => t.segs = [.d0 18, .d1 220] ∧ t.txState = .play) := by decide
/-- R168. -/
theorem test_zero_overlay :
    gives (exec (.zero (.overlay 4)) tx)
      (fun t => t.segs = [.d0 18, .zs 220 4 110, .d1 18]) := by decide
/-- R121 to R123, the corner cases. -/
theorem test_classify_edges :
    [1, 99, 100, 699, 700, 1300, 1301, 65535].map (classify Config.default) =
      [.one, .one, .zero, .zero, .reset, .reset, .zero, .zero] := by decide
/-- R170: 238 + 7 * 256 + 80 ticks. -/
theorem test_byte_sent :
    gives (exec (.byte (.sent 0x01#8 0x00#8)) tx)
      (fun t => t.segs.length = 24 ∧ waveTicks t.segs = 2110) := by decide
/-- R141. -/
theorem test_byte_received :
    gives (exec (.byte (.received 0xA0#8)) { gp with byteIdx := 4 })
      (fun t => byteAt t.pkt 4 = 0xA0#8 ∧ t.byteIdx = 5) := by decide
/-- R170: 25 segments for 0x00 and 17 for 0xFF. -/
theorem test_byte_segments :
    (waveByte Config.default 0x00#8 0x00#8).length = 25 ∧ (waveByte Config.default 0xFF#8 0x00#8).length = 17 := by decide
/-- R250: the keep-alive is 29764 ticks. -/
theorem test_packet_sent :
    gives (exec (.packet (.sent 0x00#8 0x80#8 zero10 0x00#8)) tx)
      (fun t => waveTicks t.segs = 29764) := by decide +kernel
/-- R144. -/
theorem test_packet_received :
    gives (exec (.packet .received) full)
      (fun t => t.rxValid = true ∧ t.peerFlags = 0x80#8 ∧ byteAt t.rxPayload 3 = 0x12#8) := by decide
/-- R172, R41. -/
theorem test_burst_sent :
    gives (exec (.burst (.sent zero10)) rx)
      (fun t => waveTicks t.segs = 400 + 11 * 2128 ∧ t.segs.length = 276) := by decide +kernel
/-- R246. -/
theorem test_burst_received :
    gives (exec (.burst .received) rbFull)
      (fun t => t.rxValid = true ∧ t.rxPayload = queueExample ∧ t.txState = .idle) := by decide
/-- R186: 0x10 is ignored. -/
theorem test_host_ready_gate :
    gives (exec (.hostReady .seen) { full with pkt := putByte packetExample 1 0x10#8 })
      (fun t => t.rxValid = false ∧ t.diag = 0x00#8 ∧ t.linkState = .awaitingSync) := by decide
/-- R187. -/
theorem test_data_avail_set :
    gives (exec (.dataAvail .set) { tx with outFlags := 0x80#8 })
      (fun t => t.outFlags = 0x81#8) := by decide
/-- R188: pkt[1] = 0x90 with q_len = 3 starts a reply. -/
theorem test_bus_avail_grants :
    gives (exec (.busAvail .seen) granted)
      (fun t => t.qLen = 0 ∧ t.txState = .play ∧ t.segRem = 400) := by decide
/-- R189. -/
theorem test_error_host_set :
    gives (exec (.errorHost .set) { tx with outFlags := 0x80#8 })
      (fun t => t.outFlags = 0xC0#8) := by decide
/-- R190. -/
theorem test_tx_ready_seen :
    gives (exec (.txReady .seen) { ended 1 with rbVec := 0x10#8 })
      (fun t => t.txrSeen = true ∧ t.peerFlags = 0x10#8) := by decide
/-- R191, R268. -/
theorem test_ready_for_text_take :
    gives (exec (.readyForText .take) { tx with peerFlags := 0x12#8 })
      (fun t => t.cmdResult = true ∧ t.peerFlags = 0x10#8) := by decide
/-- R192. -/
theorem test_timer_request_sticky :
    gives (exec (.timerRequest .seen) { ended 1 with peerFlags := 0x04#8 })
      (fun t => t.peerFlags = 0x04#8) := by decide
/-- R193. -/
theorem test_error_remote_follows :
    gives (exec (.errorRemote .seen) { ended 1 with peerFlags := 0x40#8 })
      (fun t => t.peerFlags = 0x00#8) := by decide
/-- R194. -/
theorem test_is_init_seen :
    gives (exec (.isInit .seen) { ended 1 with rbVec := 0x80#8 })
      (fun t => t.peerFlags = 0x80#8) := by decide
/-- R195: a party only sets bits it owns. -/
theorem test_remote_flag_of_host :
    gives (exec (.isInit .set) tx) (fun t => t.outFlags = 0x00#8 ∧ t.cmdOk = true) := by decide
/-- R90. -/
theorem test_cmd_01 :
    gives (exec (.cmdCapabilities .enqueue one9) rx)
      (fun t => t.qLen = 10 ∧ byteAt t.qBuf 0 = 0x01#8 ∧ byteAt t.qBuf 9 = 0x09#8) := by decide
theorem test_cmd_03 :
    gives (exec (.cmdDisplayMode .enqueue one9) rx)
      (fun t => t.qLen = 10 ∧ byteAt t.qBuf 0 = 0x03#8 ∧ byteAt t.qBuf 9 = 0x09#8) := by decide
theorem test_cmd_05 :
    gives (exec (.cmdBacklight .enqueue one9) rx)
      (fun t => t.qLen = 10 ∧ byteAt t.qBuf 0 = 0x05#8 ∧ byteAt t.qBuf 9 = 0x09#8) := by decide
theorem test_cmd_40 :
    gives (exec (.cmdVolume .enqueue one9) rx)
      (fun t => t.qLen = 10 ∧ byteAt t.qBuf 0 = 0x40#8 ∧ byteAt t.qBuf 9 = 0x09#8) := by decide
theorem test_cmd_41 :
    gives (exec (.cmdPlayMode .enqueue one9) rx)
      (fun t => t.qLen = 10 ∧ byteAt t.qBuf 0 = 0x41#8 ∧ byteAt t.qBuf 9 = 0x09#8) := by decide
theorem test_cmd_42 :
    gives (exec (.cmdRecMode .enqueue one9) rx)
      (fun t => t.qLen = 10 ∧ byteAt t.qBuf 0 = 0x42#8 ∧ byteAt t.qBuf 9 = 0x09#8) := by decide
theorem test_cmd_43 :
    gives (exec (.cmdBattery .enqueue one9) rx)
      (fun t => t.qLen = 10 ∧ byteAt t.qBuf 0 = 0x43#8 ∧ byteAt t.qBuf 9 = 0x09#8) := by decide
theorem test_cmd_46 :
    gives (exec (.cmdEq .enqueue one9) rx)
      (fun t => t.qLen = 10 ∧ byteAt t.qBuf 0 = 0x46#8 ∧ byteAt t.qBuf 9 = 0x09#8) := by decide
theorem test_cmd_47 :
    gives (exec (.cmdAlarm .enqueue one9) rx)
      (fun t => t.qLen = 10 ∧ byteAt t.qBuf 0 = 0x47#8 ∧ byteAt t.qBuf 9 = 0x09#8) := by decide
theorem test_cmd_a0 :
    gives (exec (.cmdTrack .enqueue one9) rx)
      (fun t => t.qLen = 10 ∧ byteAt t.qBuf 0 = 0xA0#8 ∧ byteAt t.qBuf 9 = 0x09#8) := by decide
theorem test_cmd_a1 :
    gives (exec (.cmdPlayState .enqueue one9) rx)
      (fun t => t.qLen = 10 ∧ byteAt t.qBuf 0 = 0xA1#8 ∧ byteAt t.qBuf 9 = 0x09#8) := by decide
theorem test_cmd_a2 :
    gives (exec (.cmdDisplay .enqueue one9) rx)
      (fun t => t.qLen = 10 ∧ byteAt t.qBuf 0 = 0xA2#8 ∧ byteAt t.qBuf 9 = 0x09#8) := by decide
theorem test_cmd_c8 :
    gives (exec (.cmdText .enqueue one9) rx)
      (fun t => t.qLen = 10 ∧ byteAt t.qBuf 0 = 0xC8#8 ∧ byteAt t.qBuf 9 = 0x09#8) := by decide
theorem test_cmd_18 :
    gives (exec (.cmdRequestWriteAddress .enqueue one9) rx)
      (fun t => t.qLen = 10 ∧ byteAt t.qBuf 0 = 0x18#8 ∧ byteAt t.qBuf 9 = 0x09#8) := by decide
theorem test_cmd_d8 :
    gives (exec (.cmdTrackCount .enqueue one9) rx)
      (fun t => t.qLen = 10 ∧ byteAt t.qBuf 0 = 0xD8#8 ∧ byteAt t.qBuf 9 = 0x09#8) := by decide
theorem test_cmd_d9 :
    gives (exec (.cmdSetTrack .enqueue one9) rx)
      (fun t => t.qLen = 10 ∧ byteAt t.qBuf 0 = 0xD9#8 ∧ byteAt t.qBuf 9 = 0x09#8) := by decide
/-- R240. -/
theorem test_cmd_text_sent :
    gives (exec (.cmdText .send ([0x01#8, 0x02#8] ++ List.replicate 7 0x00#8)) { ended 2 with qBuf := queueExample, qLen := 3 })
      (fun t => t.txbuf = queueExample ∧ t.qLen = 0) := by decide
/-- R144. -/
theorem test_cmd_track_delivered :
    gives (exec (.cmdTrack .deliver [0x00#8, 0x00#8, 0x12#8, 0x00#8, 0x00#8, 0x00#8, 0x00#8, 0x00#8, 0x00#8]) full)
      (fun t => t.rxValid = true ∧ byteAt t.rxPayload 0 = 0xA0#8) := by decide
/-- R266. -/
theorem test_hnop :
    gives (exec (.hnop) rx) (fun t => t.cmdOk = true ∧ t.cmdResult = false) := by decide
/-- R267. -/
theorem test_send :
    gives (exec (.send 4 ([0xA0#8, 0x00#8, 0x00#8, 0x12#8] ++ List.replicate 6 0xFF#8)) rx)
      (fun t => t.qLen = 4 ∧ t.qBuf = pad10 [0xA0#8, 0x00#8, 0x00#8, 0x12#8] ∧ t.cmdOk = true) := by decide
/-- R267. -/
theorem test_send_refused :
    gives (exec (.send 1 one10) { rx with qLen := 4 })
      (fun t => t.qLen = 4 ∧ t.cmdOk = false) := by decide
/-- R268, R92 (f): the low three bits. -/
theorem test_take :
    gives (exec (.take 0x09#8) { tx with peerFlags := 0x12#8 })
      (fun t => t.cmdResult = true ∧ t.peerFlags = 0x10#8) := by decide
/-- R269. -/
theorem test_setf_tx : gives (exec (.setf 0xFF#8) tx) (fun t => t.outFlags = 0xD1#8) := by decide
/-- R195. -/
theorem test_setf_rx : gives (exec (.setf 0xFF#8) rx) (fun t => t.outFlags = 0xD6#8) := by decide
/-- R270. -/
theorem test_clrf :
    gives (exec (.clrf 0x10#8) { tx with outFlags := 0x90#8 })
      (fun t => t.outFlags = 0x80#8) := by decide
/-- R271. -/
theorem test_wra :
    gives (exec (.wra 0xFF#8) tx) (fun t => t.hdrA = 0xFF#8 ∧ t.cmdOk = true) := by decide
/-- R272. -/
theorem test_clrd :
    gives (exec (.clrd 0xFF#8) { rx with diag := 0x12#8 }) (fun t => t.diag = 0x00#8) := by decide
/-- R273. -/
theorem test_reserved :
    gives (exec (.hostopReserved7) { rx with cmdOk := true })
      (fun t => t.cmdOk = false) := by decide
/-- R120: saturates. -/
theorem test_clk_same :
    gives (exec (.clkStep .high) { rx with tEdge := 65535 }) (fun t => t.tEdge = 65535) := by decide
/-- R120. -/
theorem test_clk_rising :
    gives (exec (.clkStep .high) { rx with prevLevel := .low, tEdge := 3 })
      (fun t => t.tEdge = 1 ∧ t.ephem = .edge (.rising 3)) := by decide
/-- R207, R213. -/
theorem test_falling :
    gives (exec (.falling 1018) { rd with pins := rxPins, outFlags := 0x10#8 })
      (fun t => t.linkState = .gatheringPacket ∧ t.injState = .wait ∧ t.injCtr = 20) := by decide
/-- R140. -/
theorem test_asm_start :
    gives (exec (.asmStart) { full with bitIdx := 3 })
      (fun t => t.byteIdx = 0 ∧ t.bitIdx = 0 ∧ t.pkt = packetExample) := by decide
/-- R141: the byte 0xA0. -/
theorem test_asm_bit :
    gives (exec (.asmBit true) { gp with bitIdx := 7, curByte := 0x20#8 })
      (fun t => byteAt t.pkt 0 = 0xA0#8 ∧ t.byteIdx = 1 ∧ t.curByte = 0x00#8) := by decide
/-- R142. -/
theorem test_asm_abandon :
    gives (exec (.asmAbandon) { gp with byteIdx := 2, bitIdx := 3 })
      (fun t => t.byteIdx = 0 ∧ t.bitIdx = 0) := by decide
/-- R156: trailer 0xB3 fails. -/
theorem test_asm_complete :
    gives (exec (.asmComplete) { full with pkt := putByte packetExample 12 0xB3#8 })
      (fun t => t.diag = 0x01#8 ∧ t.rxValid = false ∧ t.byteIdx = 0) := by decide
/-- R155. -/
theorem test_par_fold :
    gives (exec (.parFold [0xA0#8, 0x00#8, 0x12#8]) rx)
      (fun t => t.ephem = .byte 0xB2#8) := by decide
/-- R156. -/
theorem test_par_check :
    gives (exec (.parCheck .packet) full) (fun t => t.ephem = .verdict true) := by decide
/-- R157. -/
theorem test_par_append :
    gives (exec (.parAppend) { tx with txbuf := pad10 [0xA0#8, 0x00#8, 0x00#8, 0x12#8] })
      (fun t => t.ephem = .byte 0xB2#8) := by decide
/-- R175. -/
theorem test_player_counts :
    gives (exec (.playerStep .high) { slot 0 with segRem := 2 })
      (fun t => t.segRem = 1 ∧ t.segs = [.d1 80]) := by decide
/-- R168. -/
theorem test_player_samples :
    gives (exec (.playerStep .high) overlay)
      (fun t => t.rbVec = 0x10#8 ∧ t.segRem = 109) := by decide
/-- R197. -/
theorem test_hdr_decode :
    gives (exec (.hdrDecode .ownFlags) { tx with outFlags := 0x81#8 })
      (fun t => t.ephem = .hostHeader ⟨true, false, false, true⟩) := by decide
/-- R198. -/
theorem test_hdr_encode :
    gives (exec (.hdrEncode) { tx with outFlags := 0x81#8 })
      (fun t => t.ephem = .byte 0x81#8) := by decide
/-- R206. -/
theorem test_rx_sync :
    gives (exec (.rxSync) rx) (fun t => t.linkState = .resetDetected) := by decide
/-- R207. -/
theorem test_rx_start :
    gives (exec (.rxStart) rd)
      (fun t => t.linkState = .gatheringPacket ∧ t.injState = .off) := by decide
/-- R208. -/
theorem test_rx_bit :
    gives (exec (.rxBit true) gp) (fun t => t.curByte = 0x01#8 ∧ t.bitIdx = 1) := by decide
/-- R209. -/
theorem test_rx_done :
    gives (exec (.rxDone) full)
      (fun t => t.rxValid = true ∧ t.linkState = .awaitingSync) := by decide
/-- R210: n = 3 is silent. -/
theorem test_rx_resync_silent :
    gives (exec (.rxResync) { gp with bitIdx := 3 })
      (fun t => t.diag = 0x00#8 ∧ t.linkState = .awaitingSync) := by decide
/-- R210: n = 4 sets diag[1]. -/
theorem test_rx_resync_marked :
    gives (exec (.rxResync) { gp with bitIdx := 4 }) (fun t => t.diag = 0x02#8) := by decide
/-- R211. -/
theorem test_rx_timeout :
    gives (exec (.rxTimeout) { rd with tEdge := 5000 })
      (fun t => t.linkState = .awaitingSync ∧ t.diag = 0x04#8) := by decide
/-- R214. -/
theorem test_rx_inject_drives :
    gives (exec (.rxInject (.tick .low)) { gp with injState := .wait, injCtr := 1 })
      (fun t => t.injState = .drive ∧ t.injCtr = 220) := by decide
/-- R214. -/
theorem test_rx_inject_not :
    gives (exec (.rxInject (.tick .high)) { gp with injState := .wait, injCtr := 1 })
      (fun t => t.injState = .off) := by decide
/-- R216. -/
theorem test_rx_reply :
    gives (exec (.rxReply .start) granted)
      (fun t => t.txbuf = queueExample ∧ t.qLen = 0 ∧ t.segs.head? = some (.z 400)) := by decide
/-- R232. -/
theorem test_tx_start :
    gives (exec (.txStart) { tx with idleCtr := 32000, rbVec := 0x12#8 })
      (fun t => t.txState = .play ∧ t.segRem = 1100 ∧ t.rbVec = 0x00#8) := by decide
/-- R232. -/
theorem test_tx_start_waits :
    gives (exec (.txStart) { tx with idleCtr := 31999 })
      (fun t => t.txState = .idle ∧ t.idleCtr = 32000) := by decide
/-- R235. -/
theorem test_tx_preamble :
    gives (exec (.txPreamble) { tx with qLen := 1 })
      (fun t => t.segs = [.d0 1100, .d1 1018]) := by decide
/-- R271: 0xFF leaves no overlay cell. -/
theorem test_tx_hdra :
    gives (exec (.txHdra) { ended 0 with hdrA := 0xFF#8 })
      (fun t => t.segs.length = 17 ∧ t.txSlot = 1) := by decide
/-- R237. -/
theorem test_tx_overlay :
    gives (exec (.txOverlay .high) overlay) (fun t => t.rbVec = 0x10#8) := by decide
/-- R238. -/
theorem test_tx_fold :
    gives (exec (.txFold) { ended 1 with peerFlags := 0x42#8, rbVec := 0x14#8 })
      (fun t => t.peerFlags = 0x16#8 ∧ t.txrSeen = true) := by decide
/-- R239, R250. -/
theorem test_tx_flags :
    gives (exec (.txFlags) { ended 1 with outFlags := 0x80#8 })
      (fun t => waveTicks t.segs = 2110 ∧ t.txSlot = 2) := by decide
/-- R240. -/
theorem test_tx_dequeue :
    gives (exec (.txDequeue) { ended 2 with qBuf := pad10 [0xA0#8, 0x00#8, 0x00#8, 0x12#8], qLen := 4 })
      (fun t => t.txbuf = pad10 [0xA0#8, 0x00#8, 0x00#8, 0x12#8] ∧ t.qLen = 0) := by decide
/-- R241: slot 12 is txbuf[9]. -/
theorem test_tx_payload :
    gives (exec (.txPayload) { ended 11 with txbuf := pad10 one10 })
      (fun t => t.txSlot = 12 ∧ t.segs = waveByte Config.default 0x0A#8 0x00#8) := by decide
/-- R157. -/
theorem test_tx_parity :
    gives (exec (.txParity) { ended 12 with txbuf := pad10 [0xA0#8, 0x00#8, 0x00#8, 0x12#8] })
      (fun t => t.txSlot = 13 ∧ t.segs = waveByte Config.default 0xB2#8 0x00#8) := by decide
/-- R242. -/
theorem test_tx_end :
    gives (exec (.txEnd) (ended 13)) (fun t => t.txState = .idle ∧ t.txSlot = 0) := by decide
/-- R243. -/
theorem test_rb_enter :
    gives (exec (.rbEnter) { ended 13 with txrSeen := true })
      (fun t => t.txState = .readBack ∧ t.txSlot = 0) := by decide
/-- R244. -/
theorem test_rb_bit :
    gives (exec (.rbBit true) rb) (fun t => t.curByte = 0x01#8 ∧ t.bitIdx = 1) := by decide
/-- R246. -/
theorem test_rb_done :
    gives (exec (.rbDone) { rbFull with pkt := putByte burstExample 10 0xCC#8 })
      (fun t => t.diag = 0x01#8 ∧ t.rxValid = false ∧ t.txState = .idle) := by decide
/-- R247. -/
theorem test_rb_abort :
    gives (exec (.rbAbort) { rb with byteIdx := 3 })
      (fun t => t.diag = 0x08#8 ∧ t.byteIdx = 0 ∧ t.txState = .idle) := by decide
/-- R248. -/
theorem test_rb_timeout :
    gives (exec (.rbTimeout) { rb with tEdge := 5000 })
      (fun t => t.diag = 0x04#8 ∧ t.txState = .idle) := by decide
/-- R308: 15 characters give 3 fragments. -/
theorem test_chunks :
    (fragments Config.default 9 ⟨List.replicate 15 0x41#8, 0, true⟩).map
      (fun f => (f.1, f.2.getLast?)) =
      [(.append, some 0x41#8), (.append, some 0x41#8), (.finish, some 0xFF#8)] := by decide
/-- R306. -/
theorem test_chunk_next_without_session : gives (exec .chunkNext rx) (fun t => t = rx) := by decide
/-- R305 to R308: in the receive role, without a session, or without an opportunity, nothing happens. -/
theorem test_chunk_next_not_invoked :
    gives (exec .chunkNext { chunkOpen with pins := rxPins }) (fun t => t = { chunkOpen with pins := rxPins }) ∧
    gives (exec .chunkNext { chunkOpen with textReady := false })
      (fun t => t = { chunkOpen with textReady := false }) := by decide
/-- R307, R310: a refused fragment keeps the cursor and uses up the opportunity. -/
theorem test_chunk_next_refused :
    gives (exec .chunkNext { chunkOpen with qLen := 1 })
      (fun t => t.cmdOk = false ∧ t.text = chunkOpen.text ∧ t.textReady = false ∧ t.qLen = 1) := by decide
/-- R307: `TAKE 1` answered 1 is an opportunity, and a second one is not; nor is bit 1 in the receive role. -/
theorem test_take_opportunity :
    gives (exec (.take 0x01#8) { tx with peerFlags := 0x02#8 }) (fun t => t.textReady) ∧
    gives (exec (.take 0x01#8) tx) (fun t => !t.textReady) ∧
    gives (exec (.take 0x01#8) { rx with peerFlags := 0x02#8 }) (fun t => !t.textReady) := by decide
/-- R96, R270: a host-only script, and its expectations after the steps of ticks 0 and 1. -/
theorem test_script_host_only :
    (scriptTrace Config.default [] [(0, .setf 0x80#8)]).length = 1 ∧
    (⟨[], [(0, .setf 0x90#8), (1, .clrf 0x10#8)],
      [⟨.outFlags, .num 0x90, 0⟩, ⟨.outFlags, .num 0x80, 1⟩, ⟨.cmdOk, .num 1, 1⟩,
       ⟨.outFlags, .num 0x80, 2⟩, ⟨.cmdOk, .num 0, 2⟩]⟩ : Script).holds Config.default txPins = true := by
  decide
/-- V36, V43: a short payload is followed by zeros, and the parity is that of the ten bytes. -/
theorem test_script_payload :
    framePayload [0x43#8, 0x05#8] = [0x43#8, 0x05#8] ++ List.replicate 8 0x00#8 ∧
    framePayload (one10 ++ [0x0B#8]) = one10 ∧
    scriptDrives Config.default (.burst [0x43#8, 0x05#8]) =
      scriptDrives Config.default (.burst ([0x43#8, 0x05#8] ++ List.replicate 8 0x00#8)) := by
  refine ⟨by decide, by decide, ?_⟩
  simp only [scriptDrives, scriptPayload,
    show framePayload ([0x43#8, 0x05#8] ++ List.replicate 8 0x00#8) = framePayload [0x43#8, 0x05#8] by decide]
/-- V15: the samples H H L L L H. -/
theorem test_script_pulse_clock :
    (⟨[.high 2, .low 3, .high 1], [],
      [⟨.tEdge, .num 2, 1⟩, ⟨.tEdge, .num 1, 2⟩, ⟨.tEdge, .num 3, 4⟩, ⟨.tEdge, .num 1, 5⟩]⟩ : Script).holds
      Config.default rxPins = true := by decide
/-- R234. -/
theorem test_slot_two_dequeues :
    gives (exec (.playerStep .high) { slot 2 with qBuf := queueExample, qLen := 3 })
      (fun t => t.qLen = 0 ∧ t.txSlot = 3 ∧ t.segs = waveByte Config.default 0xC8#8 0x00#8) := by decide
/-- R74. -/
theorem test_contention :
    faults (step { rx with injState := .drive, injCtr := 2, trace := [⟨false, none, .peer .low, .port quietPort⟩] }) .contention := by decide
/-- U14. -/
theorem test_config_changed :
    faults (step { rx with trace := [⟨false, some txPins, .peer .released, .port quietPort⟩] }) .configChanged := by decide
/-- R9. -/
theorem test_ill_formed :
    refuses (step { rx with cfg := { Config.default with sUs := 100 } }) .illFormedConfig := by decide
/-- log entry 9. -/
theorem test_not_host :
    refuses (step (withInput (requestInput [0x0C#8, 0x07#8]) rx)) .notHostRequest := by decide
/-- R332: the bit ends the tick set. -/
theorem test_take_and_fold :
    gives (step (withInput ⟨false, none, .peer .released, .port ⟨true, 2, 0x01#8, 0, zeros 10⟩⟩ { slot 1 with peerFlags := 0x02#8, rbVec := 0x02#8 }))
      (fun t => t.peerFlags = 0x02#8 ∧ t.cmdResult = true) := by decide

/-! ## Witnesses: the hypotheses of each statement are met

Each theorem is named for its statement and clause, and shows the hypotheses of that clause for a concrete
state and operands, at a boundary value where a clause has a range. -/

/-- A tick of the bench net with this port. -/
def portTick (p : HostPort) : TickInput := ⟨false, none, .peer .released, .port p⟩
/-- SETF 0x80 on the port. -/
def setfPort : HostPort := ⟨true, 3, 0x80#8, 0, zeros 10⟩
def setfState : State := { tx with trace := [portTick setfPort] }
/-- A tick with `rst` = 1. -/
def rstState : State :=
  { full with trace := [⟨true, some txPins, .sampled .low, .port setfPort⟩] }
/-- The last bit of the packet arrives in the coming tick: the line rises after 238 LOW ticks, and the bit is a
`ZERO`-window 0 or, here, the 1 of 0xB2's bit 7. -/
def lastBit : State :=
  { gp with pkt := packetExample, byteIdx := 12, bitIdx := 7, curByte := 0x32#8, tEdge := 18,
            net := .low, trace := [sampledInput .high] }
/-- A receiver in the middle of a frame whose line stays LOW. -/
def silentState : State :=
  { gp with byteIdx := 1, bitIdx := 2, curByte := 0x03#8, trace := heldLine 5000 .low }
/-- A state that keeps the invariant and is not the reset state. -/
def invState : State := { tx with idleCtr := 31999, peerFlags := 0x12#8 }

theorem invariant_invState : Invariant invState where
  config := by decide
  tEdge_le := by decide
  idleCtr_le := by decide
  injCtr_le := by decide
  bitIdx_lt := by decide
  curByte_lt := by decide
  byteIdx_lt := by decide
  not_gathering := fun _ => by decide
  qLen_le := by decide
  owned := by decide
  diag_low := by decide
  rd_high := by decide
  playing_iff := by decide
  segs_inRange := fun g h => absurd h (by simp [invState, tx, State.reset])
  segs_le := by decide
  segRem_range := fun g h => by simp [invState, tx, State.reset] at h
  txSlot_le := by decide
  txSlot_zero := by decide
  tx_role := by decide
  rx_role := by decide
  rx_playing := by decide
  injCtr_pos := by decide
  cursor_le := by decide
  cursor_open := by decide
  text_bounded := Nat.zero_le _
  ephem_empty := by decide

theorem invariant_silentState : Invariant silentState where
  config := by decide
  tEdge_le := by decide
  idleCtr_le := by decide
  injCtr_le := by decide
  bitIdx_lt := by decide
  curByte_lt := by decide
  byteIdx_lt := by decide
  not_gathering := fun h => absurd (.inl ⟨rfl, rfl⟩) h
  qLen_le := by decide
  owned := by decide
  diag_low := by decide
  rd_high := by decide
  playing_iff := by decide
  segs_inRange := fun g h => absurd h (by simp [silentState, gp, rx, State.reset])
  segs_le := by decide
  segRem_range := fun g h => by simp [silentState, gp, rx, State.reset] at h
  txSlot_le := by decide
  txSlot_zero := by decide
  tx_role := by decide
  rx_role := by decide
  rx_playing := by decide
  injCtr_pos := by decide
  cursor_le := by decide
  cursor_open := by decide
  text_bounded := Nat.zero_le _
  ephem_empty := by decide


theorem test_witness_StepRunsFetchedOperation :
    plainTick .high setfState ∧
    fetchWord (nextInput setfState) = some setfPort.word ∧ reads setfPort.word (.setf 0x80#8) ∧
    hostLevel (.setf 0x80#8) = true := ⟨⟨by decide, by decide, by decide, by decide⟩, by decide⟩

theorem test_witness_StepRunsFetchedOperation_silent :
    plainTick .high tx ∧ hostSilent tx := ⟨⟨by decide, by decide, by decide, by decide⟩, quietPort, by decide⟩

theorem test_witness_EngineRunsItsOperations :
    rx.pins.role = .rx ∧
    tx.pins.role = .tx ∧
    { rx with ephem := .edge .none }.ephem = .edge .none ∧
    { rx with ephem := .edge (.rising 18) }.ephem = .edge (.rising 18) ∧
    { rx with ephem := .edge (.falling 0) }.ephem = .edge (.falling 0) := by decide

theorem test_witness_StopsOfAStep_config :
    ¬ { rx with cfg := { Config.default with sUs := 0 } }.cfg.wellFormed := by decide

theorem test_witness_StopsOfAStep_contention :
    (slot 0).cfg.wellFormed ∧
    lineLevel ⟨false, none, .peer .low, .port quietPort⟩ (slot 0) = none ∧
    nextInput { slot 0 with trace := [⟨false, none, .peer .low, .port quietPort⟩] } =
      ⟨false, none, .peer .low, .port quietPort⟩ := by decide

theorem test_witness_StopsOfAStep_pins :
    lineLevel ⟨false, some txPins, .sampled .low, .port quietPort⟩ rx = some .low ∧
    pinsChange ⟨false, some txPins, .sampled .low, .port quietPort⟩ rx := by decide

theorem test_witness_StopsOfAStep_words :
    plainTick .high (withInput (requestInput [0x20#8, 0x00#8]) rx) ∧
    rejects [0x20#8, 0x00#8] .unknownCode ∧ reads [0x0C#8, 0x07#8] .rxSync ∧
    hostLevel .rxSync = false ∧ plainTick .high (withInput (requestInput [0x0C#8, 0x07#8]) rx) := ⟨⟨by decide, by decide, by decide, by decide⟩, by decide, by decide, by decide,
    by decide, by decide, by decide, by decide⟩

/-- A tick in which the application sets this text. -/
def textTick (rst : Bool) (text : List Byte) : TickInput :=
  ⟨rst, none, .peer .released, .newText text⟩

theorem test_witness_StepRunsFetchedOperation_text :
    plainTick .high { tx with trace := [textTick false [0x41#8]] } ∧
    (nextInput { tx with trace := [textTick false [0x41#8]] }).host = .newText [0x41#8] :=
  ⟨⟨by decide, by decide, by decide, by decide⟩, rfl⟩

theorem test_witness_StopsOfAStep_completes :
    (rstState.cfg.wellFormed ∧ lineLevel (nextInput rstState) rstState = some .low ∧
      (nextInput rstState).rst = true) ∧
    (plainTick .high { tx with trace := [textTick false []] } ∧
      (nextInput { tx with trace := [textTick false []] }).host = .newText []) ∧
    (plainTick .high setfState ∧ (nextInput setfState).host = .port setfPort) ∧
    (plainTick .high (withInput (requestInput [0x23#8, 0x07#8]) rx) ∧
      (nextInput (withInput (requestInput [0x23#8, 0x07#8]) rx)).host = .request [0x23#8, 0x07#8] ∧
      reads [0x23#8, 0x07#8] .chunkNext ∧ hostLevel .chunkNext = true) :=
  ⟨by decide, ⟨⟨by decide, by decide, by decide, by decide⟩, rfl⟩,
    ⟨⟨by decide, by decide, by decide, by decide⟩, rfl⟩,
    ⟨⟨by decide, by decide, by decide, by decide⟩, rfl, by decide, by decide⟩⟩

theorem test_witness_BenchNetLevel_drive :
    { gp with injState := .drive }.injState = .drive ∧
    (∀ g ∈ [Segment.d0 18, .d1 220, .z 400, .zs 220 0 110], { slot 0 with segs := [g] }.segs = [g]) ∧
    ((slot 0).injState ≠ .drive ∧ (slot 0).txState = .play) ∧ tx.txState ≠ .play ∧
    (ended 0).segs = [] ∧ lineOe tx = false ∧ lineOe (slot 0) = true := by decide

theorem test_witness_BenchNetLevel :
    (Drive.high ∈ [Drive.high, .high] ∧ Drive.low ∉ [Drive.high, .high]) ∧
    (Drive.low ∈ [Drive.released, .low] ∧ Drive.high ∉ [Drive.released, .low]) ∧
    (Drive.high ∉ [Drive.released] ∧ Drive.low ∉ [Drive.released]) ∧
    (Drive.high ∈ [Drive.low, .high] ∧ Drive.low ∈ [Drive.low, .high]) := by decide

theorem test_witness_HardwareResetState :
    rstState.cfg.wellFormed ∧
    lineLevel (nextInput rstState) rstState = some .low ∧
    (nextInput rstState).rst = true := by decide

theorem test_witness_HardwareResetState_text :
    (∀ text, (nextInput rstState).host ≠ .newText text) ∧
    lineLevel (textTick true [0x41#8]) tx = some .high ∧ (textTick true [0x41#8]).rst = true ∧
    (textTick true [0x41#8]).host = .newText [0x41#8] :=
  ⟨(by intro text h; cases h), by decide, rfl, rfl⟩

theorem test_witness_StepKeepsInv :
    Invariant invState ∧ gives (step invState) (fun _ => true) := ⟨invariant_invState, by decide⟩

theorem test_witness_DecodeOfEncode :
    (Instr.falling 65535).wellFormed = true ∧
    (Instr.send 15 one10).wellFormed = true ∧
    (Instr.zero (.overlay 7)).wellFormed = true ∧
    (Instr.one (.decoded 1)).wellFormed = true := by decide

theorem test_witness_DecodedIsWellFormed :
    reads [0x01#8, 0x07#8, 0xFF#8, 0xFF#8] (.falling 65535) := by decide

theorem test_witness_PortSignalsSelectOperation :
    [0, 1, 2, 3, 4, 5, 6, 7].map (fun op => (⟨true, op, 0x07#8, 15, zeros 10⟩ : HostPort).op) =
      [0, 1, 2, 3, 4, 5, 6, 7] ∧ (nextInput setfState).host = .port setfPort := by decide

theorem test_witness_EveryLowTimeIsOneSymbol :
    (∀ d ∈ [700, 1300], Config.default.resetLowMin ≤ d ∧ d ≤ Config.default.resetLowMax) ∧
    (∀ d ∈ [0, 1, 99], ¬ (Config.default.resetLowMin ≤ d ∧ d ≤ Config.default.resetLowMax) ∧
      d < Config.default.pulseOnThreshold) ∧
    (∀ d ∈ [100, 699, 1301, 65535],
      ¬ (Config.default.resetLowMin ≤ d ∧ d ≤ Config.default.resetLowMax) ∧
      ¬ d < Config.default.pulseOnThreshold) := by decide

theorem test_witness_ReadAfterWrite :
    0 < 13 ∧ 12 < 13 ∧ 7 < 8 ∧ ([] : List Byte).length ≤ 10 ∧ one10.length ≤ 10 := by decide

theorem test_witness_XorFoldLaws :
    [0x01#8, 0x02#8].Perm [0x02#8, (0x01#8 : Byte)] := List.Perm.swap _ _ _

theorem test_witness_PulseClockStep :
    Level.high = rx.prevLevel ∧
    Level.high = .high ∧
    gp.prevLevel = .low ∧
    Level.low = .low ∧
    rx.prevLevel = .high := by decide

theorem test_witness_LinkResetInReceiver :
    (∀ d ∈ [700, 1300], classify rx.cfg d = .reset) ∧
    (rx.pins.role = .rx ∧ rx.txState = .idle ∧ rx.linkState = .awaitingSync) ∧
    (gp.pins.role = .rx ∧ gp.txState = .idle ∧ gp.linkState = .gatheringPacket) := by decide

theorem test_witness_LinkResetAbortsReadBack :
    rb.pins.role = .tx ∧
    rb.txState = .readBack ∧
    classify rb.cfg 1300 = .reset := by decide

theorem test_witness_UnconsumedSymbolsDropped :
    ({ rx with txState := .play }.pins.role = .rx ∧ { rx with txState := .play }.txState ≠ .idle) ∧
    (tx.pins.role = .tx ∧ tx.txState ≠ .readBack) ∧
    ((slot 0).pins.role = .tx ∧ (slot 0).txState ≠ .readBack) ∧
    (rx.pins.role = .rx ∧ rx.linkState = .awaitingSync) ∧
    (gp.pins.role = .rx ∧ gp.linkState = .gatheringPacket) ∧ rb.pins.role = .tx := by decide

theorem test_witness_FallingEdgeStartsFrame :
    (∀ s ∈ [rd, { rd with pins := rxPins }, { rd with pins := rxPins, outFlags := 0x01#8 }],
      s.pins.role = .rx ∧ s.txState = .idle ∧ s.linkState = .resetDetected) ∧
    (rxPins.injEn = true ∧ { rd with outFlags := 0x01#8 }.outFlags ≠ 0x00#8) ∧
    rd.pins.injEn = false ∧ { rd with pins := rxPins }.outFlags = 0x00#8 := by decide

theorem test_witness_BitAppended :
    (gp.pins.role = .rx ∧ gp.txState = .idle ∧ gp.linkState = .gatheringPacket) ∧
    (rb.pins.role = .tx ∧ rb.txState = .readBack) ∧ classify gp.cfg 99 = .one ∧
    classify gp.cfg 100 = .zero ∧
    ({ gp with bitIdx := 6, byteIdx := 12 }.bitIdx < 7 ∧
      { gp with bitIdx := 6, byteIdx := 12 }.byteIdx < frameLen gp) ∧
    ({ gp with bitIdx := 7, byteIdx := 11 }.bitIdx = 7 ∧
      { gp with bitIdx := 7, byteIdx := 11 }.byteIdx + 1 < frameLen gp) ∧
    ({ rb with bitIdx := 7, byteIdx := 9 }.bitIdx = 7 ∧
      { rb with bitIdx := 7, byteIdx := 9 }.byteIdx + 1 < frameLen rb) := by decide

theorem test_witness_LastBitCompletesFrame :
    ({ gp with bitIdx := 7, byteIdx := 12 }.bitIdx = 7 ∧ 12 + 1 = frameLen gp ∧
      gp.pins.role = .rx) ∧
    ({ rb with bitIdx := 7, byteIdx := 10 }.bitIdx = 7 ∧ 10 + 1 = frameLen rb ∧
      rb.pins.role = .tx ∧ rb.txState = .readBack) ∧
    (gp.txState = .idle ∧ gp.linkState = .gatheringPacket) ∧ classify gp.cfg 1 = .one ∧
    classify rb.cfg 65535 = .zero := by decide

theorem test_witness_ReceivedByteIsStored :
    { gp with byteIdx := 11 }.bitIdx = 0 ∧
    gp.curByte = 0x00#8 ∧
    { gp with byteIdx := 11 }.byteIdx + 1 < frameLen gp := by decide

theorem test_witness_PacketCompletion :
    (∀ s ∈ [full, granted, { full with pkt := putByte packetExample 1 0x7F#8 },
        { full with pkt := putByte packetExample 12 0xB3#8 }, { granted with qLen := 0 },
        { granted with pkt := packetExample }],
      s.pins.role = .rx ∧ s.byteIdx = s.cfg.pktLen ∧ s.txState = .idle ∧
      s.linkState = .gatheringPacket) ∧
    bitOf (byteAt (putByte packetExample 1 0x7F#8) 1) 7 = false ∧
    (bitOf (byteAt packetExample 1) 7 = true ∧ byteAt (putByte packetExample 12 0xB3#8) 12 ≠
      xorFold (((putByte packetExample 12 0xB3#8).toList.drop 2).take 10)) ∧
    byteAt packetExample 12 = xorFold ((packetExample.toList.drop 2).take 10) ∧
    full.pins.replyEn = false ∧ { granted with qLen := 0 }.qLen = 0 ∧
    bitOf (byteAt { granted with pkt := packetExample }.pkt 1) 4 = false ∧
    (granted.pins.replyEn = true ∧ bitOf (byteAt granted.pkt 1) 7 = true ∧
      byteAt granted.pkt 12 = xorFold ((granted.pkt.toList.drop 2).take 10) ∧
      bitOf (byteAt granted.pkt 1) 4 = true ∧ 0 < granted.qLen) := by decide

theorem test_witness_BurstCompletion :
    (rbFull.pins.role = .tx ∧ rbFull.txState = .readBack ∧ rbFull.byteIdx = rbFull.cfg.burstLen) ∧
    byteAt burstExample 10 = xorFold (burstExample.toList.take 10) ∧
    byteAt (putByte burstExample 10 0xCC#8) 10 ≠
      xorFold ((putByte burstExample 10 0xCC#8).toList.take 10) := by decide

theorem test_witness_ReceiverTimeout :
    (∀ s ∈ [rd, gp, rx], s.pins.role = .rx ∧ s.txState = .idle) ∧
    (rd.linkState ≠ .awaitingSync ∧ gp.linkState ≠ .awaitingSync ∧
      rd.cfg.endMsgTimeoutUs ≤ { rd with tEdge := 5000 }.tEdge) ∧
    rx.linkState = .awaitingSync ∧ { gp with tEdge := 4999 }.tEdge < gp.cfg.endMsgTimeoutUs := by decide

theorem test_witness_ReadBackTimeout :
    (∀ s ∈ [{ rb with ephem := .edge .none, tEdge := 5000 }, { rb with ephem := .edge .none }],
      s.pins.role = .tx ∧ s.txState = .readBack ∧ s.ephem = .edge .none) ∧
    rb.cfg.endMsgTimeoutUs ≤ { rb with tEdge := 5000 }.tEdge ∧
    { rb with tEdge := 4999 }.tEdge < rb.cfg.endMsgTimeoutUs := by decide

theorem test_witness_InjectMachine :
    (∀ s ∈ [{ gp with pins := rxPins, outFlags := 0x10#8 }],
      s.pins.role = .rx ∧ s.txState = .idle ∧ s.linkState = .gatheringPacket ∧ s.byteIdx = 0 ∧
      s.bitIdx = 0 ∧ s.pins.injEn = true ∧ s.outFlags ≠ 0x00#8) ∧
    rx.linkState ≠ .gatheringPacket ∧ { gp with byteIdx := 1 }.byteIdx ≠ 0 ∧
    { gp with bitIdx := 1 }.bitIdx ≠ 0 ∧ gp.pins.injEn = false ∧ gp.outFlags = 0x00#8 ∧
    gp.injState = .off ∧
    ({ gp with injState := .wait, injCtr := 2 }.injState ≠ .off ∧
      1 < { gp with injState := .wait, injCtr := 2 }.injCtr) ∧
    ({ gp with injState := .wait, injCtr := 1 }.injState = .wait ∧
      { gp with injState := .wait, injCtr := 1 }.injCtr ≤ 1) ∧
    ({ gp with injState := .drive, injCtr := 1 }.injState = .drive ∧
      { gp with injState := .drive, injCtr := 1 }.injCtr ≤ 1) ∧
    { rx with txState := .play }.txState ≠ .idle := by decide

theorem test_witness_ReplyBurst :
    (∀ s ∈ [full, granted, { granted with qLen := 0 }], s.pins.role = .rx ∧
      s.byteIdx = s.cfg.pktLen ∧ bitOf (byteAt s.pkt 1) 7 = true ∧
      byteAt s.pkt 12 = xorFold ((s.pkt.toList.drop 2).take 10)) ∧
    (granted.pins.replyEn = true ∧ bitOf (byteAt granted.pkt 1) 4 = true ∧ 0 < granted.qLen) ∧
    full.pins.replyEn = false ∧ bitOf (byteAt full.pkt 1) 4 = false ∧
    ({ rx with txState := .play }.txState = .play ∧ { rx with txState := .play }.segs = []) := by decide

theorem test_witness_PlayerStep :
    { slot 3 with segRem := 2 }.txState = .play ∧ 1 < { slot 3 with segRem := 2 }.segRem ∧
    { slot 3 with segs := [.d0 18, .d1 220] }.segs = .d0 18 :: [.d1 220] ∧ (slot 3).segRem = 1 ∧
    overlay.segs = .zs 220 4 110 :: [.d1 18] ∧ 220 = 110 + overlay.segRem ∧ 1 < overlay.segRem ∧
    220 ≠ 110 + { overlay with segRem := 220 }.segRem := by decide

theorem test_witness_PlayerStep_last_tick :
    { overlay with segRem := 1 }.segs = .zs 220 4 110 :: .d1 18 :: [] ∧
    { overlay with segRem := 1 }.segRem = 1 ∧ 220 ≠ 110 + 1 ∧
    { overlay with segs := [.zs 220 4 219, .d1 18] }.segs = .zs 220 4 219 :: .d1 18 :: [] ∧
    220 = 219 + 1 := by decide

theorem test_witness_PlayerStep_plain_head :
    ∀ n i k, Segment.d0 18 ≠ .zs n i k := by simp

theorem test_witness_SegmentRunsItsLength :
    ∀ s ∈ [{ slot 3 with segs := [.d0 1, .d1 220], segRem := 1 },
        { slot 3 with segs := [.zs 220 4 110, .d1 18], segRem := 220 }],
      s.txState = .play ∧ ∃ g ∈ s.segs.head?, ∃ h ∈ s.segs[1]?, s.segs = [g, h] ∧
        s.segRem = g.length ∧ 1 ≤ g.length := by
  simp [slot, tx, Segment.length]

theorem test_witness_SlotEndActions :
    (∀ k ∈ [0, 1, 2, 3, 11, 12, 13], (slot k).txState = .play ∧ (slot k).segs = [.d1 80] ∧
      (slot k).segRem = 1 ∧ (slot k).pins.role = .tx ∧ (slot k).txSlot = k) ∧
    { slot 0 with pins := rxPins }.pins.role = .rx ∧ 0 < { slot 2 with qLen := 10 }.qLen ∧
    (slot 2).qLen = 0 ∧ 3 ≤ (slot 3).txSlot ∧ (slot 11).txSlot ≤ 11 ∧
    (slot 13).txrSeen = false ∧ { slot 13 with txrSeen := true }.txrSeen = true := by decide

theorem test_witness_CycleStart :
    (tx.pins.role = .tx ∧ tx.txState = .idle) ∧ 0 < { tx with qLen := 1 }.qLen ∧
    tx.cfg.pollPeriodUs ≤ { tx with idleCtr := 32000 }.idleCtr ∧
    (tx.qLen = 0 ∧ { tx with idleCtr := 31999 }.idleCtr < tx.cfg.pollPeriodUs) := by decide

theorem test_witness_SlotsLoaded :
    (∀ k ∈ [0, 1, 2, 11, 12], (ended k).pins.role = .tx ∧ (ended k).txState = .play ∧
      (ended k).segs = [] ∧ (ended k).txSlot = k) ∧ 0 < { ended 2 with qLen := 10 }.qLen ∧
    (ended 2).qLen = 0 ∧ 2 ≤ (ended 2).txSlot ∧ (ended 11).txSlot ≤ 11 := by decide

theorem test_witness_OverlaySampleAndFold :
    overlay.txState = .play ∧ overlay.segs = .zs 220 4 110 :: [.d1 18] ∧
    220 = 110 + overlay.segRem ∧ 220 ≠ 110 + { overlay with segRem := 109 }.segRem ∧
    ((ended 1).txState = .play ∧ (ended 1).pins.role = .tx ∧ (ended 1).segs = [] ∧
      (ended 1).txSlot = 1) := by decide

theorem test_witness_CycleEnd :
    ∀ s ∈ [ended 13, { ended 13 with txrSeen := true }], s.pins.role = .tx ∧ s.txState = .play ∧
      s.segs = [] ∧ s.txSlot = 13 ∧ s.injState ≠ .drive := by decide

theorem test_witness_HnopSetfWraClrd :
    tx.pins.role = .tx ∧ rx.pins.role = .rx := by decide

theorem test_witness_SendEnqueues :
    rx.qLen = 0 ∧ (1 ≤ 1 ∧ 1 ≤ 10) ∧ (1 ≤ 10 ∧ 10 ≤ 10) ∧ { rx with qLen := 1 }.qLen ≠ 0 ∧
    0 = 0 ∧ 10 < 11 := by decide

theorem test_witness_ClrfClearsBits :
    { tx with outFlags := 0x90#8 }.outFlags = 0x90#8 := by decide

theorem test_witness_FlagsSetClearedTaken :
    tx.pins.role = .tx ∧ rx.pins.role = .rx ∧ hostFlagRows.length = 4 ∧ remoteFlagRows.length = 5 := by decide

theorem test_witness_HostFlagsSeen :
    (∀ s ∈ [full, granted, { granted with qLen := 0 }], s.pins.role = .rx ∧
      s.byteIdx = s.cfg.pktLen ∧ bitOf (byteAt s.pkt 1) 7 = true ∧
      byteAt s.pkt 12 = xorFold ((s.pkt.toList.drop 2).take 10)) ∧
    full.pins.replyEn = false ∧ bitOf (byteAt full.pkt 1) 4 = false ∧
    (granted.pins.replyEn = true ∧ bitOf (byteAt granted.pkt 1) 4 = true ∧ 0 < granted.qLen) := by decide

theorem test_witness_RemoteFlagsSeen :
    (ended 1).pins.role = .tx ∧
    (ended 1).txState = .play ∧
    (ended 1).segs = [] ∧
    (ended 1).txSlot = 1 := by decide

theorem test_witness_HeaderDecodeAndEncode :
    tx.pins.role = .tx ∧ rx.pins.role = .rx := by decide

theorem test_witness_CommandEnqueued :
    one9.length = 9 ∧ commandRows.length = 16 ∧ rx.qLen = 0 ∧ { rx with qLen := 10 }.qLen ≠ 0 := by decide

theorem test_witness_CommandSent :
    [0x01#8, 0x02#8, 0x00#8, 0x00#8, 0x00#8, 0x00#8, 0x00#8, 0x00#8, 0x00#8].length = 9 ∧
    commandRows[12]?.map Prod.fst = some 0xC8#8 ∧
    (∀ s ∈ [granted, { ended 2 with qBuf := queueExample, qLen := 3 }], 0 < s.qLen ∧
      (pad10 (s.qBuf.toList.take s.qLen)).toList = 0xC8#8 ::
        [0x01#8, 0x02#8, 0x00#8, 0x00#8, 0x00#8, 0x00#8, 0x00#8, 0x00#8, 0x00#8]) ∧
    ((ended 2).pins.role = .tx ∧ (ended 2).txState = .play ∧ (ended 2).segs = [] ∧
      (ended 2).txSlot = 2) ∧
    (granted.pins.role = .rx ∧ granted.byteIdx = granted.cfg.pktLen ∧
      bitOf (byteAt granted.pkt 1) 7 = true ∧
      byteAt granted.pkt 12 = xorFold ((granted.pkt.toList.drop 2).take 10) ∧
      granted.pins.replyEn = true ∧ bitOf (byteAt granted.pkt 1) 4 = true) := by decide

theorem test_witness_CommandDelivered :
    commandRows[9]?.map Prod.fst = some 0xA0#8 ∧
    (full.pins.role = .rx ∧ full.byteIdx = full.cfg.pktLen ∧
      (full.pkt.toList.drop 2).take 10 = 0xA0#8 ::
        [0x00#8, 0x00#8, 0x12#8, 0x00#8, 0x00#8, 0x00#8, 0x00#8, 0x00#8, 0x00#8] ∧
      bitOf (byteAt full.pkt 1) 7 = true ∧ byteAt full.pkt 12 = 0xB2#8 ∧
      full.pins.replyEn = false) ∧
    (rbFull.pins.role = .tx ∧ rbFull.txState = .readBack ∧ rbFull.byteIdx = rbFull.cfg.burstLen ∧
      rbFull.pkt.toList.take 10 = 0xC8#8 ::
        [0x01#8, 0x02#8, 0x00#8, 0x00#8, 0x00#8, 0x00#8, 0x00#8, 0x00#8, 0x00#8] ∧
      byteAt rbFull.pkt 10 = 0xCB#8) := by decide

/-- A session whose last fragment is due. -/
def chunkLast : State := { chunkOpen with text := ⟨List.replicate 7 0x41#8, 0, true⟩ }
/-- Fragments of twenty bytes, which SEND refuses. -/
def chunkWide : State := { chunkOpen with cfg := { Config.default with chunkLen := 20 } }

theorem test_witness_NextFragmentIsSent :
    (∀ s ∈ [chunkOpen, chunkLast, { chunkOpen with qLen := 1 }, chunkWide],
      s.pins.role = .tx ∧ s.text.active = true ∧ s.textReady = true) ∧
    (chunkOpen.cfg.chunkLen < 8 - 0 ∧ chunkOpen.qLen = 0) ∧
    (7 - 0 ≤ chunkLast.cfg.chunkLen ∧ chunkLast.qLen = 0) ∧
    { chunkOpen with qLen := 1 }.qLen ≠ 0 ∧ rx.pins.role = .rx ∧ tx.text.active = false ∧
    tx.textReady = false := by decide

theorem test_witness_NextFragmentIsSent_accepted :
    (textPayload chunkLast.text .finish (List.replicate 7 0x41#8)).length ≤ 10 := by
  have := textPayload_length chunkLast.text .finish (List.replicate 7 0x41#8)
  simp only [List.length_replicate] at this
  omega

theorem test_witness_NextFragmentIsSent_too_long :
    10 < (textPayload chunkWide.text .finish
      (List.replicate 8 0x41#8 ++ List.replicate 12 0xFF#8)).length := by
  have := textPayload_length chunkWide.text .finish
    (List.replicate 8 0x41#8 ++ List.replicate 12 0xFF#8)
  simp only [List.length_append, List.length_replicate] at this
  omega

theorem test_witness_FragmentsAreTheText :
    1 ≤ Config.default.chunkLen ∧
    [0x41#8] ≠ [] ∧
    [0x41#8].length ≤ 1 := by decide

theorem test_witness_PayloadRoundTrip :
    Config.default.wellFormed ∧ one10.length = 10 := by decide

theorem test_witness_SymbolsDeliverPacket :
    gp.pins.role = .rx ∧
    gp.txState = .idle ∧
    gp.linkState = .gatheringPacket ∧
    gp.bitIdx = 0 ∧
    gp.byteIdx = 0 ∧
    gp.curByte = 0x00#8 ∧
    gp.cfg.pktLen = 13 ∧
    gp.pins.replyEn = false ∧
    classify gp.cfg 99 = .one ∧
    classify gp.cfg 100 = .zero ∧
    one10.length = 10 ∧
    bitOf 0x80#8 7 = true := by decide

theorem test_witness_QuietReceiverNeverDrives :
    rx.pins.role = .rx ∧
    rx.pins.injEn = false ∧
    rx.pins.replyEn = false ∧
    rx.txState = .idle ∧
    rx.injState = .off ∧
    (nextInput rx).rst = false ∧
    gives (step rx) (fun _ => true) := by decide

theorem test_witness_EngineKeepsHostRegisters :
    hostSilent lastBit ∧ (nextInput lastBit).rst = false ∧ gives (step lastBit) (fun _ => true) := ⟨⟨quietPort, by decide⟩, by decide⟩

theorem test_witness_DeliveryNeedsRisingEdge :
    plainTick .high lastBit ∧ gives (step lastBit) (fun t => t.rxValid = true) := ⟨⟨by decide, by decide, by decide, by decide⟩, by decide⟩

theorem test_witness_SilentLineEndsFrame :
    Invariant silentState ∧ silentState.pins.role = .rx ∧
    silentState.linkState ≠ .awaitingSync ∧
    silentState.trace = heldLine silentState.cfg.endMsgTimeoutUs silentState.prevLevel := ⟨invariant_silentState, by decide, by decide, rfl⟩

theorem test_witness_CycleStartsAfterPollPeriod :
    Invariant invState ∧ invState.pins.role = .tx ∧ invState.txState = .idle ∧
    invState.qLen = 0 ∧ invState.trace = [] ∧ invState.idleCtr ≤ invState.cfg.pollPeriodUs := ⟨invariant_invState, by decide⟩

end Sys2Proof.Tests
end

section
/-! PROOFS. The family 00_scope.md: reading a buffer or a bit after a write (R11, R12, R60), and where a
step stops and that nothing else stops it (R9, R12, R74, R333). -/

namespace Sys2Proof.Machine

open Sys2Proof

/-! ### Bytes of a buffer and bits of a byte -/

/-- An element of a buffer by the library's optional access; outside the buffer a read gives 0. -/
theorem byteAt_eq_getElem? {n : Nat} (buf : Vector Byte n) (i : Nat) :
    byteAt buf i = buf[i]?.getD 0x00#8 := by
  rw [byteAt, List.getD_eq_getElem?_getD, Vector.getElem?_toList]

@[simp] theorem byteAt_putByte_same {n : Nat} (buf : Vector Byte n) {i : Nat} (v : Byte) (hi : i < n) :
    byteAt (putByte buf i v) i = v := by
  rw [byteAt_eq_getElem?, putByte, Vector.getElem?_setIfInBounds_self_of_lt hi, Option.getD_some]

theorem byteAt_putByte_ne {n : Nat} (buf : Vector Byte n) {i j : Nat} (v : Byte) (hij : j ≠ i) :
    byteAt (putByte buf i v) j = byteAt buf j := by
  rw [byteAt_eq_getElem?, putByte, Vector.getElem?_setIfInBounds_ne hij.symm, byteAt_eq_getElem?]

/-- The byte with the one bit `i`. -/
theorem getLsbD_one_shiftLeft {i j : Nat} (hj : j < 8) :
    (1#8 <<< i).getLsbD j = decide (j = i) := by
  simp only [BitVec.getLsbD_shiftLeft, BitVec.getLsbD_one, hj, decide_true, Bool.true_and]
  grind

/-- Setting joins the byte with the one bit `i`, clearing meets it with every other bit. -/
theorem bitOf_setBitTo (v : Byte) {i j : Nat} (b : Bool) (hj : j < 8) :
    bitOf (setBitTo v i b) j = if j = i then b else bitOf v j := by
  cases b
  case true =>
    have hset : bitOf (setBitTo v i true) j = (bitOf v j || decide (j = i)) := by
      rw [setBitTo, if_pos rfl, bitOf, BitVec.getLsbD_or, getLsbD_one_shiftLeft hj, bitOf]
    rw [hset]
    by_cases hij : j = i <;> simp [hij]
  case false =>
    have hclear : bitOf (setBitTo v i false) j = (bitOf v j && !decide (j = i)) := by
      rw [setBitTo, if_neg Bool.false_ne_true, bitOf, BitVec.getLsbD_and, BitVec.getLsbD_not,
        getLsbD_one_shiftLeft hj, decide_eq_true hj, Bool.true_and, bitOf]
    rw [hclear]
    by_cases hij : j = i <;> simp [hij]

/-- Where the list fits, nothing of it is cut off and zeros fill the buffer. -/
theorem bufOfList_toList {n : Nat} {l : List Byte} (hl : l.length ≤ n) :
    (bufOfList n l).toList = l ++ List.replicate (n - l.length) 0x00#8 := by
  have hmin : min (n - l.length) n = n - l.length := by omega
  rw [bufOfList, Vector.toList_mk, List.take_append, List.take_of_length_le hl,
    List.take_replicate, hmin]

/-- Settles O14, from one read-after-write rule each for the elements of a buffer, the bits of a byte and
the zeros behind a short list. -/
theorem readAfterWrite : Obligations.ReadAfterWrite := by
  refine ⟨fun n buf i j v hi => ?_, fun v i j b _ hj => bitOf_setBitTo v b hj,
    fun l => bufOfList_toList⟩
  split
  case isTrue hji => rw [hji, byteAt_putByte_same buf v hi]
  case isFalse hji => exact byteAt_putByte_ne buf v hji

/-- Settles O8: the meaning of each operation, and of each of its forms, is a next state. -/
theorem everyOperationCompletes : Obligations.EveryOperationCompletes := exec_next

/-! ### Reading the port's signals back -/

theorem takeBytes_append (l rest : List Byte) :
    takeBytes l.length (l ++ rest) = some (l, rest) := by
  induction l with
  | nil => rfl
  | cons b l ih => simp [takeBytes, ih]

theorem takeBytes_vector {n : Nat} (buf : Vector Byte n) :
    takeBytes n buf.toList = some (buf.toList, []) := by
  have h := takeBytes_append buf.toList []
  rwa [List.append_nil, Vector.length_toList] at h

/-- The word of the port's signals is always an operation: all eight codes of `cmd_op` are rows and
`cmd_len` fits its field (30_encoding.md R91). -/
theorem decode_portWord (p : HostPort) :
    decode p.word = .ok (hostopRow p.op p.arg p.len.toNat p.data.toList, []) := by
  have hop : (p.op.setWidth 8).toNat < 8 := by
    rw [BitVec.toNat_setWidth]; omega
  have hlen : (p.len.setWidth 8).toNat = p.len.toNat := by
    rw [BitVec.toNat_setWidth]; omega
  have hcode : (p.op.setWidth 8).setWidth 3 = p.op := by
    simp
  have hword : decode p.word = decodeHostop (p.op.setWidth 8)
      (p.arg :: p.len.setWidth 8 :: p.data.toList) := rfl
  rw [hword]
  simp only [decodeHostop, takeBytes_vector, hcode, hlen]
  rw [if_neg (by omega), if_neg (by omega)]

/-- Every code of `cmd_op` is one a host may present. -/
theorem hostLevel_hostopRow (op : BitVec 3) (arg : Byte) (len : Nat) (data : List Byte) :
    hostLevel (hostopRow op arg len data) = true := by
  unfold hostopRow
  split <;> rfl

/-! ### The host phase -/

theorem runWord_of_error {word : List Byte} {why : DecodeError} (h : decode word = .error why)
    (s : State) : runWord word s = .refused (.illegalWord why) := by
  rw [runWord, h]

theorem runWord_of_ok {word rest : List Byte} {i : Instr} (h : decode word = .ok (i, rest))
    (s : State) : runWord word s = if hostLevel i then exec i s else .refused .notHostRequest := by
  rw [runWord, h]

/-- A request that a host may make runs to a next state. -/
theorem runWord_next {word rest : List Byte} {i : Instr} (h : decode word = .ok (i, rest))
    (hi : hostLevel i = true) (s : State) : ∃ t, runWord word s = .next t := by
  rw [runWord_of_ok h, if_pos hi]
  exact exec_next i s

/-- A tick that presents a word has no new text, so its host phase runs the word. -/
theorem hostPhase_of_fetchWord {inp : TickInput} {word : List Byte} (h : fetchWord inp = some word)
    (s : State) : hostPhase inp s = runWord word s := by
  unfold hostPhase
  split
  case h_1 t ht => simp [fetchWord, ht] at h
  case h_2 => rw [h]

theorem hostPhase_newText_next {inp : TickInput} {text : List Byte} (h : inp.host = .newText text)
    (s : State) : ∃ t, hostPhase inp s = .next t :=
  ⟨setText text s, by rw [hostPhase, h]⟩

/-- The port never stops a tick: without `cmd_valid` it asks for nothing, and with it every code is an
operation that a host may make. -/
theorem hostPhase_port_next {inp : TickInput} {p : HostPort} (h : inp.host = .port p) (s : State) :
    ∃ t, hostPhase inp s = .next t := by
  cases hv : p.valid
  case false => exact ⟨s, by simp [hostPhase, fetchWord, h, hv]⟩
  case true =>
    have hf : fetchWord inp = some p.word := by simp [fetchWord, h, hv]
    rw [hostPhase_of_fetchWord hf]
    exact runWord_next (decode_portWord p) (hostLevel_hostopRow ..) s

theorem hostPhase_request_next {inp : TickInput} {word rest : List Byte} {i : Instr}
    (h : inp.host = .request word) (hd : decode word = .ok (i, rest)) (hi : hostLevel i = true)
    (s : State) : ∃ t, hostPhase inp s = .next t := by
  have hf : fetchWord inp = some word := by rw [fetchWord, h]
  rw [hostPhase_of_fetchWord hf]
  exact runWord_next hd hi s

/-! ### The engine -/

theorem andThen_completes {o : Outcome} {f : State → Outcome} (ho : ∃ s, o = .next s)
    (hf : ∀ s, ∃ t, f s = .next t) : ∃ t, andThen o f = .next t := by
  obtain ⟨s, rfl⟩ := ho
  exact hf s

theorem injectPhase_next (line : Level) (s : State) : ∃ t, injectPhase line s = .next t := by
  unfold injectPhase
  split
  · exact exec_next _ s
  · exact ⟨s, rfl⟩

theorem transmitPhase_next (before : TxState) (line : Level) (s : State) :
    ∃ t, transmitPhase before line s = .next t := by
  unfold transmitPhase
  split
  · exact exec_next _ s
  · exact exec_next _ s
  · exact ⟨s, rfl⟩
  · exact ⟨s, rfl⟩

/-- The engine completes in every state: each of its sub-steps is an operation or nothing
(20_memory.md R70). -/
theorem engine_next (before : TxState) (line : Level) (s : State) :
    ∃ t, engine before line s = .next t :=
  andThen_completes (exec_next _ s) fun a =>
  andThen_completes (injectPhase_next line a) fun b =>
  andThen_completes (exec_next _ b) fun c =>
  andThen_completes (transmitPhase_next before line c) fun d => ⟨endTick d, rfl⟩

/-! ### Where a step stops -/

theorem step_of_illFormed {s : State} (h : ¬ s.cfg.wellFormed) :
    step s = .refused .illFormedConfig := if_neg h

theorem step_of_contention {s : State} (hw : s.cfg.wellFormed)
    (hl : lineLevel (nextInput s) s = none) : step s = .fault .contention := by
  rw [step, stepTick, if_pos hw, hl]

theorem step_eq_tick {s : State} {line : Level} (hw : s.cfg.wellFormed)
    (hl : lineLevel (nextInput s) s = some line) : step s = tick (nextInput s) line s := by
  rw [step, stepTick, if_pos hw, hl]

theorem tick_of_rst {inp : TickInput} (h : inp.rst = true) (line : Level) (s : State) :
    tick inp line s = .next (takeNewText inp (hardwareReset inp.pins (beginTick line s))) := if_pos h

theorem tick_of_pinsChange {inp : TickInput} {s : State} (hr : inp.rst = false)
    (hp : pinsChange inp s) (line : Level) : tick inp line s = .fault .configChanged := by
  rw [tick, if_neg (by simp [hr]), if_pos hp]

/-- An ordinary tick is the host phase, after the one-tick outputs have fallen, and then the engine. -/
theorem step_of_plainTick {s : State} {line : Level} (h : plainTick line s) :
    step s = andThen (hostPhase (nextInput s) (clearPulses (beginTick line s)))
      (engine s.txState line) := by
  obtain ⟨hw, hr, hp, hl⟩ := h
  rw [step_eq_tick hw hl, tick, if_neg (by simp [hr]), if_neg hp]

/-- A word that is refused stops the ordinary tick that presents it, before the engine. -/
theorem step_of_refusedWord {s : State} {line : Level} {word : List Byte} {why : Refusal}
    (h : plainTick line s) (hf : fetchWord (nextInput s) = some word)
    (hrun : ∀ u, runWord word u = .refused why) : step s = .refused why := by
  rw [step_of_plainTick h, hostPhase_of_fetchWord hf, hrun, andThen_refused]

/-- An ordinary tick whose host phase completes has a next state. -/
theorem step_next_of_hostPhase {s : State} {line : Level} (h : plainTick line s)
    (hh : ∀ u, ∃ t, hostPhase (nextInput s) u = .next t) : ∃ t, step s = .next t := by
  rw [step_of_plainTick h]
  exact andThen_completes (hh _) (engine_next s.txState line)

/-- Settles O3: the stops are the branches of a step and of its host phase, and the host phase of every
other tick and the engine complete because each operation does. -/
theorem stopsOfAStep : Obligations.StopsOfAStep := by
  refine ⟨fun s => step_of_illFormed, fun s => step_of_contention, ?_, ?_, ?_⟩
  · intro s line hw hl hr hp
    rw [step_eq_tick hw hl, tick_of_pinsChange hr hp]
  · intro s line word h hf
    refine ⟨fun why hd => step_of_refusedWord h hf (runWord_of_error hd), fun i rest hd hi => ?_⟩
    have hrun : ∀ u, runWord word u = .refused .notHostRequest := fun u => by
      rw [runWord_of_ok hd, hi]; rfl
    exact step_of_refusedWord h hf hrun
  · intro s line hw hl hcase
    rcases hcase with hr | ⟨h, ⟨text, ht⟩ | ⟨port, hp⟩ | ⟨word, i, rest, hq, hd, hi⟩⟩
    · exact ⟨_, by rw [step_eq_tick hw hl, tick_of_rst hr]⟩
    · exact step_next_of_hostPhase h (hostPhase_newText_next ht)
    · exact step_next_of_hostPhase h (hostPhase_port_next hp)
    · exact step_next_of_hostPhase h (hostPhase_request_next hq hd hi)

end Sys2Proof.Machine
end

section
/-! PROOFS. What the host's phase of a tick can do (20_memory.md R70 sub-step 3), stated once for every
operation that a host can ask for. -/

namespace Sys2Proof.Machine

open Sys2Proof

/-- The state after a host's operation, one constructor per shared operation that the host's rows call
(47_host_commands.md R265 to R273, 49_text_chunker_boundary.md R306, R308). -/
inductive HostEffect (s : State) : State → Prop where
  | silent : HostEffect s s
  | answer (ok result : Bool) : HostEffect s (respond ok result s)
  | enqueue (len : Nat) (data : List Byte) : HostEffect s (enqueue len data s)
  | take (k : Nat) : HostEffect s (takeBit k s)
  | setFlags (m : Byte) : HostEffect s (setFlags m s)
  | clearFlags (m : Byte) : HostEffect s (clearFlags m s)
  | writeHeader (a : Byte) : HostEffect s (respond true false { s with hdrA := a })
  | clearDiag (m : Byte) : HostEffect s (clearDiag m s)
  | fragment (hopen : s.text.active = true) :
      HostEffect s (sendChunk (nextChunk s.cfg s.text) s)
  | newText (t : List Byte) : HostEffect s (setText t s)

/-! ### The rows that a host can ask for -/

theorem hostEffect_takeFlagOf (owner : Role) (k : Nat) (s : State) :
    HostEffect s (takeFlagOf owner k s) := by
  unfold takeFlagOf
  split
  · exact .answer true false
  · exact .take k

/-- The nine header flags have one shape: set, clear and take are the port's commands on one bit. -/
theorem hostEffect_of_flagForm (owner : Role) (mask : Byte) (k : Nat) {flag : FlagForm → Instr}
    {s t : State}
    (hset : exec (flag .set) s = .next (setFlagOf owner mask s))
    (hclear : exec (flag .clear) s = .next (clearFlagOf owner mask s))
    (htake : exec (flag .take) s = .next (takeFlagOf owner k s))
    {form : FlagForm} (hform : hostLevelFlag form = true) (h : exec (flag form) s = .next t) :
    HostEffect s t := by
  cases form
  case set => rw [hset] at h; cases h; exact .setFlags _
  case clear => rw [hclear] at h; cases h; exact .clearFlags _
  case seen => cases hform
  case take => rw [htake] at h; cases h; exact hostEffect_takeFlagOf owner k s

/-- The sixteen command ids have one shape: asked for by a host, each is the SEND of its ten bytes. -/
theorem hostEffect_of_leg {cmd : Leg → List Byte → Instr} {payload data : List Byte} {s t : State}
    (henq : exec (cmd .enqueue data) s = .next (enqueue 10 payload s))
    {leg : Leg} (hleg : decide (leg = .enqueue) = true) (h : exec (cmd leg data) s = .next t) :
    HostEffect s t := by
  obtain rfl := of_decide_eq_true hleg
  rw [henq] at h
  cases h
  exact .enqueue _ _

theorem hostEffect_chunkNext {s t : State} (h : exec .chunkNext s = .next t) : HostEffect s t := by
  rcases execChunkNext_cases s with ⟨⟨-, hopen, -⟩, he⟩ | ⟨-, he⟩ <;> rw [he] at h <;> cases h
  · exact .fragment hopen
  · exact .silent

/-- Whatever a host can ask for has one of the effects above. -/
theorem hostEffect_of_exec {i : Instr} {s t : State} (hi : hostLevel i = true)
    (h : exec i s = .next t) : HostEffect s t := by
  cases i
  case hostReady => exact hostEffect_of_flagForm .tx 0x80#8 7 (flag := .hostReady) rfl rfl rfl hi h
  case dataAvail => exact hostEffect_of_flagForm .tx 0x01#8 0 (flag := .dataAvail) rfl rfl rfl hi h
  case busAvail => exact hostEffect_of_flagForm .tx 0x10#8 4 (flag := .busAvail) rfl rfl rfl hi h
  case errorHost => exact hostEffect_of_flagForm .tx 0x40#8 6 (flag := .errorHost) rfl rfl rfl hi h
  case txReady => exact hostEffect_of_flagForm .rx 0x10#8 4 (flag := .txReady) rfl rfl rfl hi h
  case readyForText =>
    exact hostEffect_of_flagForm .rx 0x02#8 1 (flag := .readyForText) rfl rfl rfl hi h
  case timerRequest =>
    exact hostEffect_of_flagForm .rx 0x04#8 2 (flag := .timerRequest) rfl rfl rfl hi h
  case errorRemote =>
    exact hostEffect_of_flagForm .rx 0x40#8 6 (flag := .errorRemote) rfl rfl rfl hi h
  case isInit => exact hostEffect_of_flagForm .rx 0x80#8 7 (flag := .isInit) rfl rfl rfl hi h
  case cmdCapabilities => exact hostEffect_of_leg (cmd := .cmdCapabilities) rfl hi h
  case cmdDisplayMode => exact hostEffect_of_leg (cmd := .cmdDisplayMode) rfl hi h
  case cmdBacklight => exact hostEffect_of_leg (cmd := .cmdBacklight) rfl hi h
  case cmdVolume => exact hostEffect_of_leg (cmd := .cmdVolume) rfl hi h
  case cmdPlayMode => exact hostEffect_of_leg (cmd := .cmdPlayMode) rfl hi h
  case cmdRecMode => exact hostEffect_of_leg (cmd := .cmdRecMode) rfl hi h
  case cmdBattery => exact hostEffect_of_leg (cmd := .cmdBattery) rfl hi h
  case cmdEq => exact hostEffect_of_leg (cmd := .cmdEq) rfl hi h
  case cmdAlarm => exact hostEffect_of_leg (cmd := .cmdAlarm) rfl hi h
  case cmdTrack => exact hostEffect_of_leg (cmd := .cmdTrack) rfl hi h
  case cmdPlayState => exact hostEffect_of_leg (cmd := .cmdPlayState) rfl hi h
  case cmdDisplay => exact hostEffect_of_leg (cmd := .cmdDisplay) rfl hi h
  case cmdText => exact hostEffect_of_leg (cmd := .cmdText) rfl hi h
  case cmdRequestWriteAddress =>
    exact hostEffect_of_leg (cmd := .cmdRequestWriteAddress) rfl hi h
  case cmdTrackCount => exact hostEffect_of_leg (cmd := .cmdTrackCount) rfl hi h
  case cmdSetTrack => exact hostEffect_of_leg (cmd := .cmdSetTrack) rfl hi h
  case hnop => cases h; exact .answer _ _
  case send => cases h; exact .enqueue _ _
  case take => cases h; exact .take _
  case setf => cases h; exact .setFlags _
  case clrf => cases h; exact .clearFlags _
  case wra => cases h; exact .writeHeader _
  case clrd => cases h; exact .clearDiag _
  case hostopReserved7 => cases h; exact .answer _ _
  case chunkNext => exact hostEffect_chunkNext h
  all_goals cases hi

theorem hostEffect_of_runWord {word : List Byte} {s t : State} (h : runWord word s = .next t) :
    HostEffect s t := by
  cases hd : decode word with
  | error why => rw [runWord_of_error hd] at h; cases h
  | ok parsed =>
    rw [runWord_of_ok hd] at h
    split at h
    · exact hostEffect_of_exec ‹_› h
    · cases h

/-- The host phase of a tick that completes: one effect of the host, or none. -/
theorem hostEffect_of_hostPhase {inp : TickInput} {s t : State} (h : hostPhase inp s = .next t) :
    HostEffect s t := by
  cases hf : fetchWord inp with
  | some word =>
    rw [hostPhase_of_fetchWord hf] at h
    exact hostEffect_of_runWord h
  | none =>
    unfold hostPhase at h
    split at h
    · cases h; exact .newText _
    · rw [hf] at h; cases h; exact .silent

theorem hostPhase_of_silent {s : State} (h : hostSilent s) (u : State) :
    hostPhase (nextInput s) u = .next u := by
  obtain ⟨p, hp, hv⟩ := h
  simp [hostPhase, fetchWord, hp, hv]

/-! ### What the host leaves unchanged -/

/-- Outside the queue, the flags, `hdr_a`, `diag`, the answers and the text session, `t` is `s`. -/
def HostFrame (s t : State) : Prop :=
  t = { s with
    qBuf := t.qBuf, qLen := t.qLen, outFlags := t.outFlags, peerFlags := t.peerFlags,
    hdrA := t.hdrA, diag := t.diag, cmdOk := t.cmdOk, cmdResult := t.cmdResult, text := t.text,
    textReady := t.textReady, ephem := t.ephem }

theorem HostEffect.frame {s t : State} (h : HostEffect s t) : HostFrame s t := by
  cases h with
  | silent => rfl
  | answer ok result => rfl
  | enqueue len data => rcases enqueue_cases len data s with ⟨-, he⟩ | ⟨-, he⟩ <;> rw [he] <;> rfl
  | take k => rfl
  | setFlags m => rfl
  | clearFlags m => rfl
  | writeHeader a => rfl
  | clearDiag m => rfl
  | fragment hopen =>
    rcases sendChunk_cases (nextChunk s.cfg s.text) s with ⟨-, he⟩ | ⟨-, he⟩ <;> rw [he] <;> rfl
  | newText t => rcases setText_cases t s with ⟨-, -, he⟩ | ⟨-, he⟩ <;> rw [he] <;> rfl

end Sys2Proof.Machine
end

section
/-! PROOFS. What the engine's sub-steps can do and what they leave unchanged (20_memory.md R70 sub-steps 4
to 7): every sub-step inverted once, and a frame for each. -/

namespace Sys2Proof.Machine

open Sys2Proof

/-! ### The sub-steps one after another -/

/-- A step without hardware reset: the host's effect on the state whose one-tick outputs have fallen, the
PulseClock, the inject, the receive path, the transmit path. -/
theorem step_next_phases {s t : State} (h : step s = .next t) (hr : (nextInput s).rst = false) :
    ∃ line u b c d, lineLevel (nextInput s) s = some line ∧
      hostPhase (nextInput s) (clearPulses (beginTick line s)) = .next u ∧
      injectPhase line (clockStep line u) = .next b ∧ receivePhase b = .next c ∧
      transmitPhase s.txState line c = .next d ∧ t = endTick d := by
  obtain ⟨-, line, hline, ⟨hrst, -⟩ | ⟨-, -, u, hu, he⟩⟩ := step_next h
  · rw [hr] at hrst; cases hrst
  · unfold engine at he
    obtain ⟨a, ha, hinject⟩ := andThen_eq_next.1 he
    obtain rfl : clockStep line u = a := by injection ha
    obtain ⟨b, hb, hreceive⟩ := andThen_eq_next.1 hinject
    obtain ⟨c, hc, htransmit⟩ := andThen_eq_next.1 hreceive
    obtain ⟨d, hd, hend⟩ := andThen_eq_next.1 htransmit
    exact ⟨line, u, b, c, d, hline, hu, hb, hc, hd, by injection hend with hend; exact hend.symm⟩

theorem injectPhase_cases {line : Level} {s t : State} (h : injectPhase line s = .next t) :
    (listening s ∧ t = injectTick line s) ∨ (¬ listening s ∧ t = s) := by
  unfold injectPhase at h
  split at h
  · by_cases hl : listening s
    · simp only [exec, execRxInject, if_pos hl] at h
      cases h
      exact .inl ⟨hl, rfl⟩
    · simp only [exec, execRxInject, if_neg hl] at h
      cases h
      exact .inr ⟨hl, rfl⟩
  · rename_i hrole
    cases h
    exact .inr ⟨fun hl => by simp [hl.1] at hrole, rfl⟩

/-- What a symbol's operation does in the receive path: a link reset or a bit, by its LOW time
(40_pulse_decoder.md R126). -/
theorem exec_symbolInstr (d : Nat) (s : State) :
    exec (symbolInstr s.cfg d) s = .next (consumeReset s) ∨
    ∃ b, exec (symbolInstr s.cfg d) s = .next (consumeBit b s) := by
  cases hc : classify s.cfg d
  · exact .inl (by simp [symbolInstr, exec, execReset, hc])
  · exact .inr ⟨true, by simp [symbolInstr, exec, execOne, hc]⟩
  · exact .inr ⟨false, by simp [symbolInstr, exec, execZero, hc]⟩

/-- The time-out test of either role: a frame under way is abandoned, or nothing happens. -/
theorem exec_timeoutInstr (s : State) :
    (((listening s ∧ s.linkState ≠ .awaitingSync) ∨ readingBack s) ∧ timedOut s ∧
      exec (timeoutInstr s) s = .next (raise .starvation s)) ∨
    exec (timeoutInstr s) s = .next s := by
  cases hr : s.pins.role
  · by_cases h : (listening s ∧ s.linkState ≠ .awaitingSync) ∧ timedOut s
    · exact .inl ⟨.inl h.1, h.2, by simp only [timeoutInstr, hr, exec, execRxTimeout, if_pos h]⟩
    · exact .inr (by simp only [timeoutInstr, hr, exec, execRxTimeout, if_neg h])
  · by_cases h : readingBack s ∧ timedOut s
    · exact .inl ⟨.inr h.1, h.2, by simp only [timeoutInstr, hr, exec, execRbTimeout, if_pos h]⟩
    · exact .inr (by simp only [timeoutInstr, hr, exec, execRbTimeout, if_neg h])

/-- The receive path by the edge of the tick: a symbol at a rising edge, the end of `RD` at a falling one,
else perhaps the time-out. -/
theorem receivePhase_cases {s t : State} (h : receivePhase s = .next t) :
    (∃ d, s.ephem = .edge (.rising d) ∧ (t = consumeReset s ∨ ∃ b, t = consumeBit b s)) ∨
    (∃ d, s.ephem = .edge (.falling d) ∧ t = consumeFalling s) ∨
    (((listening s ∧ s.linkState ≠ .awaitingSync) ∨ readingBack s) ∧ timedOut s ∧
      t = raise .starvation s) ∨
    ((∀ d, s.ephem ≠ .edge (.falling d)) ∧ t = s) := by
  unfold receivePhase edgeInstr at h
  split at h
  · rename_i d he
    refine .inl ⟨d, he, ?_⟩
    rcases exec_symbolInstr d s with hx | ⟨b, hx⟩ <;> rw [hx] at h <;> cases h
    · exact .inl rfl
    · exact .inr ⟨b, rfl⟩
  · cases h
    exact .inr (.inl ⟨_, ‹_›, rfl⟩)
  · rename_i hnf
    rcases exec_timeoutInstr s with ⟨hw, ht, hx⟩ | hx <;> rw [hx] at h <;> cases h
    · exact .inr (.inr (.inl ⟨hw, ht, rfl⟩))
    · exact .inr (.inr (.inr ⟨hnf, rfl⟩))

theorem transmitPhase_cases {before : TxState} {line : Level} {s t : State}
    (h : transmitPhase before line s = .next t) :
    (before = .play ∧ t = playTick line s) ∨ (before = .idle ∧ txIdle s ∧ t = startCycle s) ∨
    t = s := by
  unfold transmitPhase at h
  split at h
  · cases h
    exact .inl ⟨rfl, rfl⟩
  · by_cases hi : txIdle s
    · simp only [exec, execTxStart, if_pos hi] at h
      cases h
      exact .inr (.inl ⟨rfl, hi, rfl⟩)
    · simp only [exec, execTxStart, if_neg hi] at h
      cases h
      exact .inr (.inr rfl)
  · cases h
    exact .inr (.inr rfl)
  · cases h
    exact .inr (.inr rfl)

/-! ### What the engine leaves unchanged -/

/-- Outside the fields that the inject, the receive path and the transmit path write, `t` is `s`. -/
def EngineOnly (s t : State) : Prop :=
  t = { s with
    linkState := t.linkState, bitIdx := t.bitIdx, byteIdx := t.byteIdx, curByte := t.curByte,
    pkt := t.pkt, qLen := t.qLen, txbuf := t.txbuf, rxPayload := t.rxPayload,
    rxValid := t.rxValid, peerFlags := t.peerFlags, hdrARx := t.hdrARx, rbVec := t.rbVec,
    diag := t.diag, txState := t.txState, txSlot := t.txSlot, txrSeen := t.txrSeen,
    idleCtr := t.idleCtr, segs := t.segs, segRem := t.segRem, injState := t.injState,
    injCtr := t.injCtr }

/-- What every sub-step of the engine after the PulseClock keeps: the fields that it does not write, and
the bits of `diag` that are set, for the engine only marks conditions (10_state.md R38). -/
structure EngineFrame (s t : State) : Prop where
  only : EngineOnly s t
  diag_mono : t.diag &&& s.diag = s.diag

namespace EngineFrame

/-- An operation of the engine that leaves `diag` as it is. -/
theorem of_only {s t : State} (h : EngineOnly s t) (hd : t.diag = s.diag) : EngineFrame s t :=
  ⟨h, by rw [hd, BitVec.and_self]⟩

theorem refl (s : State) : EngineFrame s s := of_only rfl rfl

theorem trans {s t u : State} (h : EngineFrame s t) (k : EngineFrame t u) : EngineFrame s u where
  only := by
    have hk : u = _ := k.only
    rw [h.only] at hk
    exact hk
  diag_mono := by rw [← h.diag_mono, ← BitVec.and_assoc, k.diag_mono]

/-- Marking conditions sets bits. -/
theorem of_mark {s t : State} {m : Byte} (h : EngineOnly s t) (hd : t.diag = s.diag ||| m) :
    EngineFrame s t := by
  refine ⟨h, BitVec.eq_of_getLsbD_eq fun i _ => ?_⟩
  rw [hd, BitVec.getLsbD_and, BitVec.getLsbD_or]
  cases s.diag.getLsbD i <;> simp

/-! Each shared operation of the engine -/

theorem restart {s t : State} (h : EngineFrame s t) : EngineFrame s (toRestart t) := by
  refine h.trans ?_
  rcases toRestart_cases t with ⟨-, h⟩ | ⟨-, h⟩ <;> rw [h] <;> exact of_only rfl rfl

theorem raise (c : Condition) (s : State) : EngineFrame s (raise c s) := by
  cases c
  case framingNoise => exact refl s
  case peerNotReady => exact restart (of_only rfl rfl)
  all_goals exact restart (of_mark rfl rfl)

theorem replyIfGranted (s : State) : EngineFrame s (replyIfGranted s) := by
  rcases replyIfGranted_cases s with ⟨-, h⟩ | ⟨-, h⟩ <;> rw [h] <;> exact of_only rfl rfl

theorem finishPacket (s : State) : EngineFrame s (finishPacket s) := by
  rcases finishPacket_cases s with ⟨-, h⟩ | ⟨-, -, h⟩ | ⟨-, -, h⟩ <;> rw [h]
  · exact restart (of_only rfl rfl)
  · exact restart (of_mark rfl rfl)
  · have hdeliver : EngineFrame s (deliverPacket s) := of_only rfl rfl
    have hcount : ∀ u : State, EngineFrame u { u with byteIdx := 0 } := fun _ => of_only rfl rfl
    exact restart ((hdeliver.trans (replyIfGranted _)).trans (hcount _))

theorem finishBurst (s : State) : EngineFrame s (finishBurst s) := by
  rcases finishBurst_cases s with ⟨-, h⟩ | ⟨-, h⟩ <;> rw [h]
  · exact restart (of_mark rfl rfl)
  · exact restart (of_only rfl rfl)

theorem assembleBit (b : Bool) (s : State) : EngineFrame s (assembleBit b s) := by
  have happend : EngineFrame s (appendBit b s) := by
    rcases appendBit_cases b s with ⟨-, h⟩ | ⟨-, h⟩ <;> rw [h] <;> exact of_only rfl rfl
  rcases assembleBit_cases b s with ⟨-, h⟩ | ⟨-, h⟩ <;> rw [h]
  · refine happend.trans ?_
    rcases completeIfFull_cases (appendBit b s) with ⟨-, -, h⟩ | ⟨-, -, -, h⟩ | ⟨-, h⟩ <;> rw [h]
    · exact finishPacket _
    · exact finishBurst _
    · exact refl _
  · exact refl s

theorem consumeBit (b : Bool) (s : State) : EngineFrame s (consumeBit b s) := by
  rcases consumeBit_cases b s with ⟨-, h⟩ | ⟨-, -, h⟩ <;> rw [h]
  · exact assembleBit b s
  · exact refl s

theorem consumeReset (s : State) : EngineFrame s (consumeReset s) := by
  rcases consumeReset_cases s with ⟨-, -, h⟩ | ⟨-, -, h⟩ | ⟨-, h⟩ | ⟨h, -, -⟩ <;> rw [h]
  · exact of_only rfl rfl
  · exact raise _ s
  · exact raise _ s
  · exact refl s

theorem consumeFalling (s : State) : EngineFrame s (consumeFalling s) := by
  rcases consumeFalling_cases s with ⟨-, -, h⟩ | ⟨-, h⟩ <;> rw [h]
  · rcases armInject_cases (startFrame { s with linkState := .gatheringPacket }) with
      ⟨-, ha⟩ | ⟨-, ha⟩ <;> rw [startGathering, ha] <;> exact of_only rfl rfl
  · exact refl s

end EngineFrame

/-! ### The frame of each sub-step -/

theorem injectPhase_frame {line : Level} {s t : State} (h : injectPhase line s = .next t) :
    t = { s with injState := t.injState, injCtr := t.injCtr } := by
  rcases injectPhase_cases h with ⟨-, rfl⟩ | ⟨-, rfl⟩
  · rcases injectTick_cases line s with ⟨-, h⟩ | ⟨-, -, h⟩ | ⟨-, -, -, h⟩ | ⟨-, -, h⟩ <;> rw [h]
  · rfl

theorem receivePhase_frame {s t : State} (h : receivePhase s = .next t) : EngineFrame s t := by
  rcases receivePhase_cases h with ⟨-, -, rfl | ⟨b, rfl⟩⟩ | ⟨-, -, rfl⟩ | ⟨-, -, rfl⟩ | ⟨-, rfl⟩
  · exact .consumeReset s
  · exact .consumeBit b s
  · exact .consumeFalling s
  · exact .raise _ s
  · exact .refl _

/-- Outside the player's fields, the transmit cycle's, and the frame counters that a read-back starts from,
`t` is `s`. -/
def TransmitOnly (s t : State) : Prop :=
  t = { s with
    bitIdx := t.bitIdx, byteIdx := t.byteIdx, curByte := t.curByte, qLen := t.qLen,
    txbuf := t.txbuf, peerFlags := t.peerFlags, rbVec := t.rbVec, txState := t.txState,
    txSlot := t.txSlot, txrSeen := t.txrSeen, idleCtr := t.idleCtr, segs := t.segs,
    segRem := t.segRem }

theorem TransmitOnly.trans {s t u : State} (h : TransmitOnly s t) (k : TransmitOnly t u) :
    TransmitOnly s u := by
  have hk : u = _ := k
  rw [h] at hk
  exact hk

theorem TransmitOnly.engineFrame {s t : State} (h : TransmitOnly s t) : EngineFrame s t := by
  rw [h]
  exact .of_only rfl rfl

theorem slotAction_frame (s : State) : TransmitOnly s (slotAction s) := by
  rcases slotAction_cases s with ⟨-, h⟩ | ⟨-, h⟩ | ⟨-, h⟩ | ⟨-, -, h⟩ | ⟨-, h⟩ | ⟨-, -, h⟩ |
    ⟨-, -, h⟩ | ⟨-, h⟩ <;> rw [h]
  case inr.inr.inl =>
    rcases dequeue_cases s with ⟨-, hq⟩ | ⟨-, hq⟩ <;> rw [hq] <;> rfl
  all_goals rfl

theorem actIfEmpty_frame (s : State) : TransmitOnly s (actIfEmpty s) := by
  rcases actIfEmpty_cases s with ⟨-, h⟩ | ⟨-, h⟩ <;> rw [h]
  · rcases listEmptyAction_cases s with ⟨-, h⟩ | ⟨-, h⟩ <;> rw [h]
    · rfl
    · exact slotAction_frame s
  · rfl

theorem playTick_frame (line : Level) (s : State) : TransmitOnly s (playTick line s) := by
  have hsample : TransmitOnly s (sampleOverlay line s) := by
    rcases sampleOverlay_cases line s with h | ⟨_, _, _, _, -, -, h⟩ <;> rw [h] <;> rfl
  have hadvance : ∀ u, TransmitOnly u (advancePlayer u) := fun u => by
    rcases advancePlayer_cases u with ⟨-, h⟩ | ⟨-, -, h⟩ | ⟨_, -, -, h⟩ | ⟨_, _, _, -, -, h⟩ <;>
      rw [h] <;> rfl
  rcases playTick_cases line s with ⟨-, -, h⟩ | ⟨-, h⟩ <;> rw [h]
  · exact (hsample.trans (hadvance _)).trans (actIfEmpty_frame _)
  · rfl

theorem transmitPhase_frame {before : TxState} {line : Level} {s t : State}
    (h : transmitPhase before line s = .next t) : TransmitOnly s t := by
  rcases transmitPhase_cases h with ⟨-, rfl⟩ | ⟨-, -, rfl⟩ | rfl
  · exact playTick_frame line s
  · rcases startCycle_cases s with ⟨-, h⟩ | ⟨-, h⟩ <;> rw [h] <;> rfl
  · rfl

end Sys2Proof.Machine
end

section
/-! PROOFS. The frame statements of the family 10_state.md: what a tick without a command keeps (R33, R35,
R38), when `rx_valid` rises (R32), and the receiver that never drives (R40). -/

namespace Sys2Proof.Machine

open Sys2Proof

/-! ### Fields that a frame keeps -/

section
variable {s t : State}

theorem HostFrame.prevLevel (h : HostFrame s t) : t.prevLevel = s.prevLevel := by rw [h]
theorem HostFrame.rxValid (h : HostFrame s t) : t.rxValid = s.rxValid := by rw [h]
theorem HostFrame.pins (h : HostFrame s t) : t.pins = s.pins := by rw [h]

theorem EngineOnly.tEdge (h : EngineOnly s t) : t.tEdge = s.tEdge := by rw [h]
theorem EngineOnly.prevLevel (h : EngineOnly s t) : t.prevLevel = s.prevLevel := by rw [h]
theorem EngineOnly.outFlags (h : EngineOnly s t) : t.outFlags = s.outFlags := by rw [h]
theorem EngineOnly.hdrA (h : EngineOnly s t) : t.hdrA = s.hdrA := by rw [h]
theorem EngineOnly.pins (h : EngineOnly s t) : t.pins = s.pins := by rw [h]

theorem TransmitOnly.rxValid (h : TransmitOnly s t) : t.rxValid = s.rxValid := by rw [h]
theorem TransmitOnly.linkState (h : TransmitOnly s t) : t.linkState = s.linkState := by rw [h]

theorem clockStep_frame (line : Level) (s : State) :
    clockStep line s =
      { s with prevLevel := (clockStep line s).prevLevel, tEdge := (clockStep line s).tEdge,
               ephem := (clockStep line s).ephem } := by
  rcases clockStep_cases line s with ⟨-, h⟩ | ⟨-, -, h⟩ | ⟨-, -, h⟩ <;> rw [h]

@[simp] theorem clockStep_rxValid (line : Level) (s : State) :
    (clockStep line s).rxValid = s.rxValid := by rw [clockStep_frame]
@[simp] theorem clockStep_outFlags (line : Level) (s : State) :
    (clockStep line s).outFlags = s.outFlags := by rw [clockStep_frame]
@[simp] theorem clockStep_hdrA (line : Level) (s : State) :
    (clockStep line s).hdrA = s.hdrA := by rw [clockStep_frame]
@[simp] theorem clockStep_diag (line : Level) (s : State) :
    (clockStep line s).diag = s.diag := by rw [clockStep_frame]
@[simp] theorem clockStep_pins (line : Level) (s : State) :
    (clockStep line s).pins = s.pins := by rw [clockStep_frame]

end

/-! ### The registers of the host (10_state.md R33, R35, R38) -/

/-- The inject, the receive path and the transmit path together. -/
theorem phases_frame {before : TxState} {line : Level} {a b c d : State}
    (hb : injectPhase line a = .next b) (hc : receivePhase b = .next c)
    (hd : transmitPhase before line c = .next d) : EngineFrame a d := by
  have hinject : EngineFrame a b := by
    rw [injectPhase_frame hb]
    exact .of_only rfl rfl
  exact (hinject.trans (receivePhase_frame hc)).trans (transmitPhase_frame hd).engineFrame

/-- Settles O57: a silent host has no effect, and the engine writes neither register and only marks
`diag`. -/
theorem engineKeepsHostRegisters : Obligations.EngineKeepsHostRegisters := by
  intro s t hsilent hr h
  obtain ⟨line, u, b, c, d, -, hu, hb, hc, hd, rfl⟩ := step_next_phases h hr
  rw [hostPhase_of_silent hsilent] at hu
  obtain rfl : clearPulses (beginTick line s) = u := by injection hu
  obtain ⟨honly, hdiag⟩ := phases_frame hb hc hd
  have hout := honly.outFlags
  have hhdr := honly.hdrA
  simp only [clockStep_outFlags, clockStep_hdrA, clockStep_diag, clearPulses_outFlags,
    clearPulses_hdrA, clearPulses_diag, beginTick_outFlags, beginTick_hdrA,
    beginTick_diag] at hout hhdr hdiag
  exact ⟨hout, hhdr, hdiag⟩

/-! ### Delivery (10_state.md R32, 70_reset_and_hazards.md R361) -/

/-- Only a symbol delivers: without a rising edge the receive path leaves `rx_valid` as it is. -/
theorem receivePhase_rxValid {s t : State} (h : receivePhase s = .next t)
    (hedge : ∀ d, s.ephem ≠ .edge (.rising d)) : t.rxValid = s.rxValid := by
  have hrestart : ∀ u, (toRestart u).rxValid = u.rxValid := fun u => by
    rcases toRestart_cases u with ⟨-, h⟩ | ⟨-, h⟩ <;> rw [h]
  rcases receivePhase_cases h with ⟨d, he, -⟩ | ⟨-, -, rfl⟩ | ⟨-, -, rfl⟩ | ⟨-, rfl⟩
  · exact absurd he (hedge d)
  · rcases consumeFalling_cases s with ⟨-, -, h⟩ | ⟨-, h⟩ <;> rw [h]
    rcases armInject_cases (startFrame { s with linkState := .gatheringPacket }) with
      ⟨-, ha⟩ | ⟨-, ha⟩ <;> rw [startGathering, ha] <;> rfl
  · exact hrestart _
  · rfl

/-- Settles O58: `rx_valid` falls at the start of the tick, the host does not raise it, and of the engine
only the receive path at a rising edge does. -/
theorem deliveryNeedsRisingEdge : Obligations.DeliveryNeedsRisingEdge := by
  intro s t line hplain h hvalid
  obtain ⟨-, hr, -, hlevel⟩ := hplain
  obtain ⟨line', u, b, c, d, hline, hu, hb, hc, hd, rfl⟩ := step_next_phases h hr
  obtain rfl : line = line' := by rw [hlevel] at hline; injection hline
  have hhost := (hostEffect_of_hostPhase hu).frame
  have hinject := injectPhase_frame hb
  have hedge : (endTick d).tEdge = (clockStep line u).tEdge := (phases_frame hb hc hd).only.tEdge
  have hrising : ¬ ∀ n, (clockStep line u).ephem ≠ .edge (.rising n) := fun hnone => by
    have hkeep : c.rxValid = b.rxValid := receivePhase_rxValid hc (by rw [hinject]; exact hnone)
    have hlow : b.rxValid = false := by
      rw [hinject]
      simp [hhost.rxValid]
    rw [endTick_rxValid, (transmitPhase_frame hd).rxValid, hkeep, hlow] at hvalid
    cases hvalid
  rcases clockStep_cases line u with ⟨-, hk⟩ | ⟨hhigh, hwas, hk⟩ | ⟨-, -, hk⟩
  · exact absurd (by simp [hk]) hrising
  · exact ⟨hhost.prevLevel ▸ hwas, hhigh, by rw [hedge, hk]⟩
  · exact absurd (by simp [hk]) hrising

/-! ### The silent receiver (10_state.md R40) -/

/-- A receiver that may neither inject nor reply and does neither. -/
structure Quiet (s : State) : Prop where
  role : s.pins.role = .rx
  injEn : s.pins.injEn = false
  replyEn : s.pins.replyEn = false
  txState : s.txState = .idle
  injState : s.injState = .off

namespace Quiet

/-- The five fields decide it. -/
theorem congr {s t : State} (h : Quiet s) (hp : t.pins = s.pins) (hx : t.txState = s.txState)
    (hi : t.injState = s.injState) : Quiet t :=
  ⟨hp ▸ h.role, hp ▸ h.injEn, hp ▸ h.replyEn, hx ▸ h.txState, hi ▸ h.injState⟩

theorem lineOe {s : State} (h : Quiet s) : lineOe s = false := by
  simp [Machine.lineOe, lineDrive, h.injState, h.txState]

theorem restart {s : State} (h : Quiet s) : Quiet (toRestart s) := by
  rcases toRestart_cases s with ⟨-, he⟩ | ⟨hr, -⟩
  · rw [he]
    exact h.congr rfl rfl rfl
  · rw [h.role] at hr
    cases hr

theorem replyIfGranted {s : State} (h : Quiet s) : Quiet (replyIfGranted s) := by
  rcases replyIfGranted_cases s with ⟨⟨hreply, -⟩, -⟩ | ⟨-, he⟩
  · rw [h.replyEn] at hreply
    cases hreply
  · rwa [he]

theorem finishPacket {s : State} (h : Quiet s) : Quiet (finishPacket s) := by
  rcases finishPacket_cases s with ⟨-, he⟩ | ⟨-, -, he⟩ | ⟨-, -, he⟩ <;> rw [he]
  · exact restart (h.congr rfl rfl rfl)
  · exact restart (h.congr rfl rfl rfl)
  · have hdeliver : Quiet (deliverPacket s) := h.congr rfl rfl rfl
    exact restart (hdeliver.replyIfGranted.congr rfl rfl rfl)

theorem assembleBit {s : State} (h : Quiet s) (b : Bool) : Quiet (assembleBit b s) := by
  have happend : Quiet (appendBit b s) := by
    rcases appendBit_cases b s with ⟨-, he⟩ | ⟨-, he⟩ <;> rw [he] <;> exact h.congr rfl rfl rfl
  rcases assembleBit_cases b s with ⟨-, he⟩ | ⟨-, he⟩ <;> rw [he]
  · rcases completeIfFull_cases (appendBit b s) with ⟨-, -, he⟩ | ⟨hr, -⟩ | ⟨-, he⟩
    · rw [he]
      exact happend.finishPacket
    · rw [happend.role] at hr
      cases hr
    · rwa [he]
  · exact h

theorem consumeFalling {s : State} (h : Quiet s) : Quiet (consumeFalling s) := by
  rcases consumeFalling_cases s with ⟨-, -, he⟩ | ⟨-, he⟩ <;> rw [he]
  · have hstart : Quiet (startFrame { s with linkState := .gatheringPacket }) := h.congr rfl rfl rfl
    rcases armInject_cases (startFrame { s with linkState := .gatheringPacket }) with
      ⟨⟨hinj, -⟩, -⟩ | ⟨-, ha⟩
    · rw [hstart.injEn] at hinj
      cases hinj
    · rwa [startGathering, ha]
  · exact h

theorem not_readingBack {s : State} (h : Quiet s) : ¬ readingBack s := fun hr => by
  have hrole := hr.1
  rw [h.role] at hrole
  cases hrole

theorem injectPhase {line : Level} {s t : State} (h : Quiet s)
    (hs : injectPhase line s = .next t) : Quiet t := by
  rcases injectPhase_cases hs with ⟨-, rfl⟩ | ⟨-, rfl⟩
  · simpa [injectTick, h.injState] using h
  · exact h

theorem receivePhase {s t : State} (h : Quiet s) (hs : receivePhase s = .next t) : Quiet t := by
  rcases receivePhase_cases hs with ⟨-, -, rfl | ⟨b, rfl⟩⟩ | ⟨-, -, rfl⟩ | ⟨-, -, rfl⟩ | ⟨-, rfl⟩
  · rcases consumeReset_cases s with ⟨-, -, he⟩ | ⟨-, -, he⟩ | ⟨hr, -⟩ | ⟨he, -⟩
    · rw [he]
      exact h.congr rfl rfl rfl
    · rw [he]
      exact restart (h.congr rfl rfl rfl)
    · exact absurd hr h.not_readingBack
    · rwa [he]
  · rcases consumeBit_cases b s with ⟨-, he⟩ | ⟨-, -, he⟩ <;> rw [he]
    · exact h.assembleBit b
    · exact h
  · exact h.consumeFalling
  · exact restart (h.congr rfl rfl rfl)
  · exact h

theorem transmitPhase {line : Level} {s t : State} (h : Quiet s)
    (hs : transmitPhase .idle line s = .next t) : Quiet t := by
  rcases transmitPhase_cases hs with ⟨hp, -⟩ | ⟨-, ⟨hr, -⟩, -⟩ | rfl
  · cases hp
  · rw [h.role] at hr
    cases hr
  · exact h

end Quiet

/-- Settles O56: every sub-step keeps the receiver quiet, and a quiet receiver releases the line. -/
theorem quietReceiverNeverDrives : Obligations.QuietReceiverNeverDrives := by
  intro s t hrole hinj hreply htx hoff hr h
  have hs : Quiet s := ⟨hrole, hinj, hreply, htx, hoff⟩
  obtain ⟨line, u, b, c, d, -, hu, hb, hc, hd, rfl⟩ := step_next_phases h hr
  have hhost := (hostEffect_of_hostPhase hu).frame
  have ha : Quiet (clockStep line u) := by
    rw [clockStep_frame, hhost]
    exact hs.congr rfl rfl rfl
  rw [htx] at hd
  have hquiet : Quiet d := ((ha.injectPhase hb).receivePhase hc).transmitPhase hd
  have ht : Quiet (endTick d) := hquiet.congr rfl rfl rfl
  have hpins : (endTick d).pins = s.pins := by
    simp [(phases_frame hb hc hd).only.pins, hhost.pins]
  exact ⟨hpins, ht.txState, ht.injState, ht.lineOe⟩

end Sys2Proof.Machine
end

section
/-! PROOFS. The invariant of the family 10_state.md: it holds after a hardware reset (R45) and every step
keeps it. Inside a tick two of its clauses wait: what is handed on is not empty, and a falling edge that ends
`RD` has been sampled but not consumed; `TickInv` is the rest, which every sub-step keeps. -/

namespace Sys2Proof.Machine

open Sys2Proof

/-! ### Waveforms that the player may run (10_state.md R41) -/

/-- A work list with at least one segment, each in range, no longer than a reply burst's. -/
structure Playable (cfg : Config) (w : List Segment) : Prop where
  nonempty : w ≠ []
  inRange : ∀ g ∈ w, g.inRange cfg
  length_le : w.length ≤ 276

/-- The bounds of 00_scope.md R9 that make segments valid. -/
theorem segment_bounds_of_wellFormed {cfg : Config} (h : cfg.wellFormed) :
    (1 ≤ cfg.sUs ∧ cfg.sUs ≤ cfg.ctrMax) ∧ (1 ≤ cfg.lUs ∧ cfg.lUs ≤ cfg.ctrMax) ∧
    (1 ≤ cfg.high0Us ∧ cfg.high0Us ≤ cfg.ctrMax) ∧ cfg.idleUs ≤ cfg.ctrMax ∧
    (1 ≤ cfg.resetTxLowUs ∧ cfg.resetTxLowUs ≤ cfg.ctrMax) ∧
    (1 ≤ cfg.resetTxHighUs ∧ cfg.resetTxHighUs ≤ cfg.ctrMax) ∧
    (1 ≤ cfg.replyGapUs ∧ cfg.replyGapUs ≤ cfg.ctrMax) ∧
    (1 ≤ cfg.injectDelayUs ∧ cfg.injectDelayUs ≤ cfg.ctrMax) ∧
    (1 ≤ cfg.injectUs ∧ cfg.injectUs ≤ cfg.ctrMax) ∧ cfg.rbSampleUs - cfg.sUs < cfg.lUs := by
  obtain ⟨hord, hrange, -⟩ := h
  unfold Config.ordered at hord
  unfold Config.inRange at hrange
  omega

theorem Segment.one_le_length {cfg : Config} {g : Segment} (h : g.inRange cfg) : 1 ≤ g.length := by
  cases g <;> exact h.1

theorem cell_inRange {cfg : Config} (h : cfg.wellFormed) (v m : Byte) {i : Nat} (hi : i < 8) :
    ∀ g ∈ cell cfg v m i, g.inRange cfg := by
  obtain ⟨hs, hl, hh, -, -, -, -, -, -, hk⟩ := segment_bounds_of_wellFormed h
  intro g hg
  unfold cell at hg
  split at hg
  · simp only [cellOne, List.mem_cons, List.not_mem_nil, or_false] at hg
    rcases hg with rfl | rfl
    · exact hs
    · exact hl
  · split at hg
    · simp only [cellOverlay, List.mem_cons, List.not_mem_nil, or_false] at hg
      rcases hg with rfl | rfl | rfl
      · exact hs
      · exact ⟨hl.1, hl.2, hi, hk⟩
      · exact hh
    · simp only [cellZero, List.mem_cons, List.not_mem_nil, or_false] at hg
      rcases hg with rfl | rfl | rfl
      · exact hs
      · exact hl
      · exact hh

theorem cell_length (cfg : Config) (v m : Byte) (i : Nat) :
    2 ≤ (cell cfg v m i).length ∧ (cell cfg v m i).length ≤ 3 := by
  unfold cell
  split
  · simp [cellOne]
  · split <;> simp [cellOverlay, cellZero]

theorem idleGap_inRange {cfg : Config} (h : cfg.wellFormed) : ∀ g ∈ idleGap cfg, g.inRange cfg := by
  obtain ⟨-, -, -, hidle, -⟩ := segment_bounds_of_wellFormed h
  intro g hg
  unfold idleGap at hg
  split at hg
  · cases hg
  · obtain rfl := List.mem_singleton.1 hg
    exact ⟨by omega, hidle⟩

theorem idleGap_length_le (cfg : Config) : (idleGap cfg).length ≤ 1 := by
  unfold idleGap
  split <;> simp

theorem waveByte_inRange {cfg : Config} (h : cfg.wellFormed) (v m : Byte) :
    ∀ g ∈ waveByte cfg v m, g.inRange cfg := by
  intro g hg
  simp only [waveByte, List.mem_append] at hg
  rcases hg with (((((((hg | hg) | hg) | hg) | hg) | hg) | hg) | hg) | hg
  case inr => exact idleGap_inRange h g hg
  all_goals exact cell_inRange h v m (by decide) g hg

theorem waveByte_length (cfg : Config) (v m : Byte) :
    16 ≤ (waveByte cfg v m).length ∧ (waveByte cfg v m).length ≤ 25 := by
  have hcell := cell_length cfg v m
  have hgap := idleGap_length_le cfg
  have h0 := hcell 0
  have h1 := hcell 1
  have h2 := hcell 2
  have h3 := hcell 3
  have h4 := hcell 4
  have h5 := hcell 5
  have h6 := hcell 6
  have h7 := hcell 7
  simp only [waveByte, List.length_append]
  omega

theorem waveBytes_inRange {cfg : Config} (h : cfg.wellFormed) (l : List Byte) :
    ∀ g ∈ waveBytes cfg l, g.inRange cfg := by
  induction l with
  | nil => intro g hg; cases hg
  | cons v rest ih =>
    intro g hg
    rcases List.mem_append.1 hg with hg | hg
    · exact waveByte_inRange h v _ g hg
    · exact ih g hg

theorem waveBytes_length_le (cfg : Config) (l : List Byte) :
    (waveBytes cfg l).length ≤ 25 * l.length := by
  induction l with
  | nil => exact Nat.le_refl 0
  | cons v rest ih =>
    have hv := (waveByte_length cfg v 0x00#8).2
    simp only [waveBytes, List.length_append, List.length_cons]
    omega

theorem playable_waveByte {cfg : Config} (h : cfg.wellFormed) (v m : Byte) :
    Playable cfg (waveByte cfg v m) := by
  have hlen := waveByte_length cfg v m
  exact ⟨List.ne_nil_of_length_pos (by omega), waveByte_inRange h v m, by omega⟩

theorem playable_waveReset {cfg : Config} (h : cfg.wellFormed) : Playable cfg (waveReset cfg) := by
  obtain ⟨-, -, -, -, hlow, hhigh, -⟩ := segment_bounds_of_wellFormed h
  refine ⟨by simp [waveReset], fun g hg => ?_, by simp [waveReset]⟩
  simp only [waveReset, List.mem_cons, List.not_mem_nil, or_false] at hg
  rcases hg with rfl | rfl
  · exact hlow
  · exact hhigh

/-- A burst is the gap and eleven bytes: at most 1 + 11 * 25 = 276 segments. -/
theorem playable_waveBurst {cfg : Config} (h : cfg.wellFormed) (p : Vector Byte 10) :
    Playable cfg (waveBurst cfg p.toList) := by
  obtain ⟨-, -, -, -, -, -, hgap, -⟩ := segment_bounds_of_wellFormed h
  refine ⟨by simp [waveBurst], fun g hg => ?_, ?_⟩
  · simp only [waveBurst, List.mem_append, List.mem_singleton] at hg
    rcases hg with (rfl | hg) | hg
    · exact hgap
    · exact waveBytes_inRange h _ g hg
    · exact waveByte_inRange h _ _ g hg
  · have hpayload := waveBytes_length_le cfg p.toList
    have htrailer := (waveByte_length cfg (xorFold p.toList) 0x00#8).2
    simp only [waveBurst, List.length_append, List.length_cons, List.length_nil,
      Vector.length_toList] at *
    omega

/-! ### The invariant inside a tick -/

/-- The invariant but for its clauses `rd_high` and `ephem_empty`, whose fields are taken as settled. -/
abbrev TickInv (s : State) : Prop := Invariant { s with prevLevel := .high, ephem := .empty }

theorem Invariant.tickInv {s : State} (h : Invariant s) : TickInv s :=
  { h with
    rd_high := fun _ => rfl
    ephem_empty := rfl }

theorem TickInv.invariant {s : State} (h : TickInv s)
    (hrd : s.linkState = .resetDetected → s.prevLevel = .high) : Invariant (endTick s) :=
  { h with
    rd_high := hrd
    ephem_empty := rfl }

theorem TickInv.listening_of_not_awaitingSync {s : State} (h : TickInv s) (hr : s.pins.role = .rx)
    (hl : s.linkState ≠ .awaitingSync) : listening s := by
  refine ⟨hr, ?_⟩
  cases hx : s.txState
  · rfl
  · exact absurd (h.rx_playing hr hx) hl
  · exact absurd hx (h.rx_role hr).1

/-! ### The host's effects -/

theorem or_and_eq_zero {a b m : Byte} (ha : a &&& m = 0x00#8) (hb : b &&& m = 0x00#8) :
    (a ||| b) &&& m = 0x00#8 := by
  refine BitVec.eq_of_getLsbD_eq fun i hi => ?_
  have hai := congrArg (·.getLsbD i) ha
  have hbi := congrArg (·.getLsbD i) hb
  simp only [BitVec.getLsbD_and, BitVec.getLsbD_or, BitVec.getLsbD_zero] at *
  rw [Bool.and_or_distrib_right, hai, hbi, Bool.or_self]

theorem and_and_eq_zero {a m : Byte} (ha : a &&& m = 0x00#8) (b : Byte) :
    (a &&& b) &&& m = 0x00#8 := by
  rw [BitVec.and_assoc, BitVec.and_comm b, ← BitVec.and_assoc, ha, BitVec.zero_and]

/-- The session after a fragment: complete, or open with its cursor further on and still in the string
(49_text_chunker_boundary.md R308). -/
theorem nextChunk_session (cfg : Config) (t : TextSession) :
    (nextChunk cfg t).2.2 = { t with cursor := 0, active := false } ∨
    (t.cursor + cfg.chunkLen < t.text.length ∧
      (nextChunk cfg t).2.2 = { t with cursor := t.cursor + cfg.chunkLen }) := by
  unfold nextChunk
  simp only
  split
  · exact .inl rfl
  · rename_i hlen
    rw [List.length_drop] at hlen
    exact .inr ⟨by omega, rfl⟩

theorem Invariant.setText {s : State} (h : Invariant s) (t : List Byte) : Invariant (setText t s) := by
  rcases setText_cases t s with ⟨-, hne, he⟩ | ⟨-, he⟩ <;> rw [he]
  · exact { h with
      cursor_le := Nat.zero_le _
      cursor_open := fun _ => List.length_pos_iff.2 hne
      text_bounded := (keptText_spec t).1 }
  · exact h

theorem Invariant.endTick {s : State} (h : Invariant s) : Invariant (endTick s) :=
  { h with ephem_empty := rfl }

theorem Invariant.sendChunk {s : State} (h : Invariant s) :
    Invariant (Machine.endTick (sendChunk (nextChunk s.cfg s.text) s)) := by
  rcases sendChunk_cases (nextChunk s.cfg s.text) s with ⟨⟨-, -, hlen⟩, he⟩ | ⟨-, he⟩ <;> rw [he]
  · rcases nextChunk_session s.cfg s.text with ht | ⟨hlt, ht⟩ <;> rw [ht]
    · exact { h with
        qLen_le := hlen
        cursor_le := Nat.zero_le _
        cursor_open := fun hopen => by cases hopen
        ephem_empty := rfl }
    · exact { h with
        qLen_le := hlen
        cursor_le := hlt.le
        cursor_open := fun _ => hlt
        ephem_empty := rfl }
  · exact { h with ephem_empty := rfl }

/-- The host reaches the queue, the flags, `diag` and the text session, each by an operation that keeps its
range. -/
theorem Invariant.hostEffect {s t : State} (h : Invariant s) (he : HostEffect s t) :
    Invariant (Machine.endTick t) := by
  cases he with
  | silent => exact h.endTick
  | answer ok result => exact { h with ephem_empty := rfl }
  | enqueue len data =>
    rcases enqueue_cases len data s with ⟨⟨-, -, hlen⟩, he⟩ | ⟨-, he⟩ <;> rw [he]
    · exact { h with qLen_le := hlen, ephem_empty := rfl }
    · exact { h with ephem_empty := rfl }
  | take k => exact { h with ephem_empty := rfl }
  | setFlags m =>
    have hown : (m &&& ownMask s.cfg s.pins.role) &&& ~~~(ownMask s.cfg s.pins.role) = 0x00#8 := by
      rw [BitVec.and_assoc, BitVec.and_not_self]
      exact BitVec.and_zero
    exact { h with owned := or_and_eq_zero h.owned hown, ephem_empty := rfl }
  | clearFlags m => exact { h with owned := and_and_eq_zero h.owned _, ephem_empty := rfl }
  | writeHeader a => exact { h with ephem_empty := rfl }
  | clearDiag m => exact { h with diag_low := and_and_eq_zero h.diag_low _, ephem_empty := rfl }
  | fragment hopen => exact h.sendChunk
  | newText t => exact (h.setText t).endTick

/-! ### The PulseClock and the inject -/

/-- After the PulseClock's step a sampled rise has left the line HIGH, and in `RD` only a falling edge still
to be consumed finds it LOW (45_link_rx.md R207). -/
structure EdgeSampled (s : State) : Prop where
  rising_high : ∀ n, s.ephem = .edge (.rising n) → s.prevLevel = .high
  rd_high : s.linkState = .resetDetected → s.prevLevel = .high ∨ ∃ n, s.ephem = .edge (.falling n)

theorem one_le_ctrMax {cfg : Config} (h : cfg.wellFormed) : 1 ≤ cfg.ctrMax := by
  obtain ⟨hs, -⟩ := segment_bounds_of_wellFormed h
  omega

theorem sat_le (cfg : Config) (n : Nat) : sat cfg n ≤ cfg.ctrMax := Nat.min_le_right _ _

theorem tickInv_clockStep {s : State} (h : Invariant (endTick s)) (line : Level) :
    TickInv (clockStep line s) ∧ EdgeSampled (clockStep line s) := by
  have hs := h.tickInv
  rcases clockStep_cases line s with ⟨-, he⟩ | ⟨-, -, he⟩ | ⟨-, -, he⟩ <;> rw [he]
  · exact ⟨{ hs with tEdge_le := sat_le _ _ },
      { rising_high := fun n hn => by simp at hn
        rd_high := fun hrd => .inl (h.rd_high hrd) }⟩
  · exact ⟨{ hs with tEdge_le := one_le_ctrMax h.config },
      { rising_high := fun _ _ => rfl
        rd_high := fun _ => .inl rfl }⟩
  · exact ⟨{ hs with tEdge_le := one_le_ctrMax h.config },
      { rising_high := fun n hn => by simp at hn
        rd_high := fun _ => .inr ⟨_, rfl⟩ }⟩

namespace TickInv

theorem injectTick {s : State} (h : TickInv s) (hl : listening s) (line : Level) :
    TickInv (injectTick line s) := by
  obtain ⟨-, -, -, -, -, -, -, -, ⟨hpos, hle⟩, -⟩ := segment_bounds_of_wellFormed h.config
  have hrx : s.pins.role ≠ .tx := by simp [hl.1]
  rcases injectTick_cases line s with ⟨-, he⟩ | ⟨-, hlt, he⟩ | ⟨-, -, -, he⟩ | ⟨-, -, he⟩ <;> rw [he]
  · exact h
  · exact { h with
      injCtr_le := (Nat.sub_le _ _).trans h.injCtr_le
      injCtr_pos := fun _ => Nat.le_sub_of_add_le hlt }
  · exact { h with
      injCtr_le := hle
      injCtr_pos := fun _ => hpos
      tx_role := fun hr => absurd hr hrx }
  · exact { h with
      injCtr_pos := fun hne => absurd rfl hne
      tx_role := fun hr => absurd hr hrx }

theorem injectPhase {line : Level} {s t : State} (h : TickInv s)
    (hs : injectPhase line s = .next t) : TickInv t := by
  rcases injectPhase_cases hs with ⟨hl, rfl⟩ | ⟨-, rfl⟩
  · exact h.injectTick hl line
  · exact h

end TickInv

theorem EdgeSampled.injectPhase {line : Level} {s t : State} (h : EdgeSampled s)
    (hs : injectPhase line s = .next t) : EdgeSampled t := by
  rw [injectPhase_frame hs]
  exact ⟨h.rising_high, h.rd_high⟩

/-! ### Conditions and restarts -/

/-- Bits 5 to 7 of `diag` belong to no condition (60_exceptions.md R321). -/
theorem conditionMarks_low (s : State) (c : Condition) : conditionMarks s c &&& 0xE0#8 = 0x00#8 := by
  cases c <;> simp only [conditionMarks]
  case prematureReset =>
    refine or_and_eq_zero ?_ ?_
    all_goals split <;> decide
  all_goals decide

namespace TickInv

variable {s : State}

theorem mark (h : TickInv s) (c : Condition) : TickInv (mark c s) :=
  { h with diag_low := or_and_eq_zero h.diag_low (conditionMarks_low s c) }

theorem abandonFrame (h : TickInv s) : TickInv (abandonFrame s) :=
  { h with
    bitIdx_lt := Nat.zero_lt_succ 7
    curByte_lt := Nat.one_pos
    byteIdx_lt := Nat.zero_lt_of_lt h.byteIdx_lt
    not_gathering := fun _ => ⟨rfl, rfl⟩ }

/-- Back to `AS`, or to `T_IDLE` from a read-back, once the frame counters are 0. -/
theorem restart (h : TickInv s) (hbit : s.bitIdx = 0) (hbyte : s.byteIdx = 0)
    (hx : s.txState ≠ .play) : TickInv (toRestart s) := by
  rcases toRestart_cases s with ⟨hr, he⟩ | ⟨hr, he⟩ <;> rw [he]
  · have hrx : s.pins.role ≠ .tx := by simp [hr]
    exact { h with
      not_gathering := fun _ => ⟨hbit, hbyte⟩
      rd_high := fun _ => rfl
      tx_role := fun hr => absurd hr hrx
      rx_playing := fun _ _ => rfl }
  · have htx : s.pins.role ≠ .rx := by simp [hr]
    have hsegs : s.segs = [] := by
      by_contra hne
      exact hx (h.playing_iff.2 hne)
    exact { h with
      idleCtr_le := Nat.zero_le _
      not_gathering := fun _ => ⟨hbit, hbyte⟩
      playing_iff := by simp [hsegs]
      txSlot_zero := fun _ => h.txSlot_zero hx
      rx_role := fun hr => absurd hr htx
      rx_playing := fun hr => absurd hr htx }

/-- The conditions that abandon the frame (60_exceptions.md R324, R326, R327). -/
theorem abandon (h : TickInv s) (c : Condition) (hx : s.txState ≠ .play) :
    TickInv (toRestart (Machine.abandonFrame (Machine.mark c s))) :=
  (h.mark c).abandonFrame.restart rfl rfl hx

/-! ### The player's list -/

/-- Outside a frame, in `AS`, the player may begin a list. -/
theorem play {w : List Segment} (h : TickInv s) (hw : Playable s.cfg w) (hg : ¬ gathering s)
    (hl : s.linkState = .awaitingSync) : TickInv (play w s) :=
  { h with
    not_gathering := fun _ => h.not_gathering hg
    playing_iff := iff_of_true rfl hw.nonempty
    segs_inRange := hw.inRange
    segs_le := hw.length_le
    segRem_range := fun g hg => by
      have hhead : w.head? = some g := hg
      simp only [play_segRem, hhead, Option.map_some, Option.getD_some]
      exact ⟨Segment.one_le_length (hw.inRange g (List.mem_of_head? hhead)), Nat.le_refl _⟩
    txSlot_zero := fun hne => absurd rfl hne
    rx_role := fun hr => ⟨by simp, (h.rx_role hr).2⟩
    rx_playing := fun _ _ => hl }

/-! ### Completion of a frame -/

/-- The reply begins with the frame closed and the state back in `AS` (45_link_rx.md R216). -/
theorem startReply (h : TickInv s) (hg : ¬ gathering s) (hl : s.linkState = .awaitingSync) :
    TickInv (startReply s) := by
  have hqueue : TickInv { s with txbuf := queuedPayload s, qLen := 0 } :=
    { h with qLen_le := Nat.zero_le _ }
  exact hqueue.play (playable_waveBurst h.config _) hg hl

/-- A full packet leaves the invariant's range only by its byte count, which completion sets to 0
(41_packet_assembler.md R144). -/
theorem finishPacket (h : TickInv { s with byteIdx := 0 }) (hbit : s.bitIdx = 0)
    (hr : s.pins.role = .rx) (hx : s.txState = .idle) : TickInv (finishPacket s) := by
  have hplay : s.txState ≠ .play := by simp [hx]
  rcases finishPacket_cases s with ⟨-, he⟩ | ⟨-, -, he⟩ | ⟨-, -, he⟩ <;> rw [he]
  · exact h.restart hbit rfl hplay
  · exact (h.mark .parityMismatch).restart hbit rfl hplay
  · have hdeliver : TickInv { deliverPacket s with byteIdx := 0 } := { h with }
    have hclosed : TickInv (toRestart { deliverPacket s with byteIdx := 0 }) :=
      hdeliver.restart hbit rfl hplay
    rcases replyIfGranted_cases (deliverPacket s) with ⟨-, hq⟩ | ⟨-, hq⟩ <;> rw [hq]
    · have hg : ¬ gathering (toRestart { deliverPacket s with byteIdx := 0 }) := by
        simp [gathering, readingBack, toRestart, hr]
      have hreply := hclosed.startReply hg (by simp [toRestart, hr])
      have hcomm : toRestart { Machine.startReply (deliverPacket s) with byteIdx := 0 } =
          Machine.startReply (toRestart { deliverPacket s with byteIdx := 0 }) := by
        simp [toRestart, Machine.startReply, Machine.play, queuedPayload, hr]
      rwa [hcomm]
    · exact hclosed

/-- So does a full burst (46_link_tx.md R246). -/
theorem finishBurst (h : TickInv { s with byteIdx := 0 }) (hbit : s.bitIdx = 0)
    (hx : s.txState = .readBack) : TickInv (finishBurst s) := by
  have hplay : s.txState ≠ .play := by simp [hx]
  rcases finishBurst_cases s with ⟨-, he⟩ | ⟨-, he⟩ <;> rw [he]
  · exact (h.mark .parityMismatch).restart hbit rfl hplay
  · have hdeliver : TickInv { deliverBurst s with byteIdx := 0 } := { h with }
    exact hdeliver.restart hbit rfl hplay

/-! ### Assembly -/

end TickInv

/-- The byte under assembly stays clear above its next bit (41_packet_assembler.md R141). -/
theorem withBit_lt {s : State} (hc : s.curByte.toNat < 2 ^ s.bitIdx) (b : Bool) :
    (withBit b s).toNat < 2 ^ (s.bitIdx + 1) := by
  rw [withBit, BitVec.toNat_or]
  refine Nat.or_lt_two_pow (hc.trans (Nat.pow_lt_pow_succ (by decide))) ?_
  rw [BitVec.toNat_shiftLeft, Nat.shiftLeft_eq]
  refine (Nat.mod_le _ _).trans_lt ?_
  rw [Nat.pow_succ]
  have hpos : 0 < 2 ^ s.bitIdx := Nat.two_pow_pos _
  cases b <;> simp

namespace TickInv

variable {s : State}

/-- One bit more of a frame: inside a byte, at the end of a byte, or at the end of the frame, which then
completes in the same tick (41_packet_assembler.md R141, R143). -/
theorem assembleBit (h : TickInv s) (hg : gathering s)
    (hidle : s.pins.role = .rx → s.txState = .idle) (b : Bool) : TickInv (assembleBit b s) := by
  rcases assembleBit_cases b s with ⟨hlt, he⟩ | ⟨-, he⟩ <;> rw [he]
  · rcases appendBit_cases b s with ⟨hbit, ha⟩ | ⟨-, ha⟩ <;> rw [ha]
    · have hin : TickInv { s with curByte := withBit b s, bitIdx := s.bitIdx + 1 } :=
        { h with
          bitIdx_lt := Nat.succ_lt_succ hbit
          curByte_lt := withBit_lt h.curByte_lt b
          not_gathering := fun hn => absurd hg hn }
      rcases completeIfFull_cases { s with curByte := withBit b s, bitIdx := s.bitIdx + 1 } with
        ⟨-, hfull, -⟩ | ⟨-, -, hfull, -⟩ | ⟨-, hc⟩
      · exact absurd hfull (Nat.ne_of_lt hlt)
      · exact absurd hfull (Nat.ne_of_lt hlt)
      · rwa [hc]
    · have hempty := h.abandonFrame
      generalize hu : ({ s with
        pkt := putByte s.pkt s.byteIdx (withBit b s), byteIdx := s.byteIdx + 1, bitIdx := 0,
        curByte := 0x00#8 } : State) = u
      have hcleared : TickInv { u with byteIdx := 0 } := by subst hu; exact { hempty with }
      rcases completeIfFull_cases u with ⟨hr, -, hc⟩ | ⟨-, hx, -, hc⟩ | ⟨hshort, hc⟩ <;> rw [hc]
      · exact hcleared.finishPacket (by subst hu; rfl) hr (by subst hu; exact hidle hr)
      · exact hcleared.finishBurst (by subst hu; rfl) hx
      · have hg' : gathering u := by subst hu; exact hg
        have hne : u.byteIdx ≠ frameLen u := fun hfull => by
          obtain ⟨hr, hx⟩ := hshort hfull
          simp [gathering, readingBack, hr, hx] at hg'
        have hle : u.byteIdx ≤ frameLen u := by subst hu; exact hlt
        exact { hcleared with
          byteIdx_lt := Nat.lt_of_le_of_ne hle hne
          not_gathering := fun hn => absurd hg' hn }
  · exact h

/-! ### The receive path -/

theorem consumeBit (h : TickInv s) (b : Bool) : TickInv (consumeBit b s) := by
  rcases consumeBit_cases b s with ⟨⟨hl, hgp⟩ | hrb, he⟩ | ⟨-, -, he⟩ <;> rw [he]
  · exact h.assembleBit (.inl ⟨hl.1, hgp⟩) (fun _ => hl.2) b
  · exact h.assembleBit (.inr hrb) (fun hr => by simp [hrb.1] at hr) b
  · exact h

theorem consumeReset (h : TickInv s) : TickInv (consumeReset s) := by
  rcases consumeReset_cases s with ⟨hl, has, he⟩ | ⟨hl, -, he⟩ | ⟨hrb, he⟩ | ⟨he, -⟩ <;> rw [he]
  · have hrx : s.pins.role ≠ .tx := by simp [hl.1]
    have hg : ¬ gathering s := by simp [gathering, readingBack, hl.1, has]
    exact { h with
      not_gathering := fun _ => h.not_gathering hg
      rd_high := fun _ => rfl
      tx_role := fun hr => absurd hr hrx
      rx_playing := fun _ hp => absurd hp (by simp [hl.2]) }
  · exact h.abandon .prematureReset (by simp [hl.2])
  · exact h.abandon .readBackAbort (by simp [hrb.2])
  · exact h

theorem startGathering (h : TickInv s) (hl : listening s) : TickInv (startGathering s) := by
  have hrx : s.pins.role ≠ .tx := by simp [hl.1]
  have hframe : TickInv (startFrame { s with linkState := .gatheringPacket }) :=
    { h.abandonFrame with
      not_gathering := fun _ => ⟨rfl, rfl⟩
      rd_high := fun _ => rfl
      tx_role := fun hr => absurd hr hrx
      rx_playing := fun _ hp => absurd hp (by simp [hl.2]) }
  obtain ⟨-, -, -, -, -, -, -, ⟨hpos, hle⟩, -⟩ := segment_bounds_of_wellFormed h.config
  rcases armInject_cases (startFrame { s with linkState := .gatheringPacket }) with
    ⟨-, ha⟩ | ⟨-, ha⟩ <;> rw [Machine.startGathering, ha]
  · exact { hframe with
      injCtr_le := hle
      injCtr_pos := fun _ => hpos
      tx_role := fun hr => absurd hr hrx }
  · exact hframe

theorem consumeFalling (h : TickInv s) : TickInv (consumeFalling s) := by
  rcases consumeFalling_cases s with ⟨hl, -, he⟩ | ⟨-, he⟩ <;> rw [he]
  · exact h.startGathering hl
  · exact h

theorem receivePhase {t : State} (h : TickInv s) (hs : receivePhase s = .next t) : TickInv t := by
  rcases receivePhase_cases hs with ⟨-, -, rfl | ⟨b, rfl⟩⟩ | ⟨-, -, rfl⟩ | ⟨hw, -, rfl⟩ | ⟨-, rfl⟩
  · exact h.consumeReset
  · exact h.consumeBit b
  · exact h.consumeFalling
  · refine h.abandon .starvation ?_
    rcases hw with ⟨hl, -⟩ | hr
    · simp [hl.2]
    · simp [hr.2]
  · exact h

/-- A falling edge in `RD` is consumed by the receive path (45_link_rx.md R207). -/
theorem receivePhase_rd_high {t : State} (h : TickInv s) (he : EdgeSampled s)
    (hs : Machine.receivePhase s = .next t) (hrd : t.linkState = .resetDetected) :
    t.prevLevel = .high := by
  rw [(receivePhase_frame hs).only.prevLevel]
  have hlisten : s.linkState = .resetDetected → listening s := fun hrd => by
    refine h.listening_of_not_awaitingSync ?_ (by simp [hrd])
    cases hr : s.pins.role
    · rfl
    · have has : s.linkState = .awaitingSync := (h.tx_role hr).1
      simp [hrd] at has
  rcases receivePhase_cases hs with ⟨n, hn, -⟩ | ⟨-, -, rfl⟩ | ⟨hw, -, rfl⟩ | ⟨hnone, rfl⟩
  · exact he.rising_high n hn
  · rcases consumeFalling_cases s with ⟨-, -, hc⟩ | ⟨hnot, hc⟩ <;> rw [hc] at hrd
    · rcases armInject_cases (startFrame { s with linkState := .gatheringPacket }) with
        ⟨-, ha⟩ | ⟨-, ha⟩ <;> rw [Machine.startGathering, ha] at hrd <;> cases hrd
    · exact absurd ⟨hlisten hrd, hrd⟩ hnot
  · rcases hw with ⟨hl, -⟩ | ⟨hr, -⟩
    · simp [toRestart, hl.1] at hrd
    · have has : s.linkState = .awaitingSync := (h.tx_role hr).1
      simp [toRestart, hr, has] at hrd
  · rcases he.rd_high hrd with hhigh | ⟨n, hn⟩
    · exact hhigh
    · exact absurd hn (hnone n)

end TickInv

/-! ### The transmit path -/

/-- `s` with the player halted. -/
def halted (s : State) : State := { s with segs := [], txState := .idle, txSlot := 0 }

/-- Begin slot `k` of a cycle with its waveform (46_link_tx.md R234); the slots' actions are this
(`playHeader`, `playFlags`, `playPayload`, `playParity`), and so is its preamble. -/
def playSlot (k : Nat) (w : List Segment) (s : State) : State := play w { s with txSlot := k }

theorem playHeader_eq (s : State) :
    playHeader s = playSlot 1 (waveByte s.cfg s.hdrA (overlayMask s)) s := rfl
theorem playFlags_eq (s : State) :
    playFlags s = playSlot 2 (waveByte s.cfg s.outFlags 0x00#8) s := rfl
theorem playPayload_eq (s : State) : playPayload s =
    playSlot (s.txSlot + 1) (waveByte s.cfg (byteAt s.txbuf (s.txSlot - 2)) 0x00#8) s := rfl
theorem playParity_eq (s : State) :
    playParity s = playSlot 13 (waveByte s.cfg (xorFold s.txbuf.toList) 0x00#8) s := rfl

theorem not_gathering_of_tx {s : State} (hr : s.pins.role = .tx) (hx : s.txState ≠ .readBack) :
    ¬ gathering s := by
  simp [gathering, readingBack, hr, hx]

namespace TickInv

variable {s : State}

theorem not_gathering_of_play (h : TickInv s) (hx : s.txState = .play) : ¬ gathering s := by
  cases hr : s.pins.role
  · have has : s.linkState = .awaitingSync := h.rx_playing hr hx
    simp [gathering, readingBack, hr, has]
  · exact not_gathering_of_tx hr (by simp [hx])

theorem halted (h : TickInv s) (hg : ¬ gathering s) : TickInv (halted s) :=
  { h with
    not_gathering := fun _ => h.not_gathering hg
    playing_iff := by simp [Machine.halted]
    segs_inRange := fun g hg => by cases hg
    segs_le := Nat.zero_le _
    segRem_range := fun g hg => by cases hg
    txSlot_le := Nat.zero_le _
    txSlot_zero := fun _ => rfl
    rx_role := fun _ => ⟨by simp [Machine.halted], rfl⟩
    rx_playing := fun _ hp => by cases hp }

/-- A slot's waveform is put in place of whatever the player had. -/
theorem playSlot {k : Nat} {w : List Segment} (h : TickInv (Machine.halted s))
    (hr : s.pins.role = .tx) (hk : k ≤ 13) (hw : Playable s.cfg w) : TickInv (playSlot k w s) := by
  have htx : s.pins.role ≠ .rx := by simp [hr]
  have hg : ¬ gathering (Machine.halted s) := not_gathering_of_tx hr (by simp [Machine.halted])
  have hplay : TickInv (Machine.play w (Machine.halted s)) := h.play hw hg (h.tx_role hr).1
  exact { hplay with
    txSlot_le := hk
    txSlot_zero := fun hne => absurd rfl hne
    rx_role := fun hr => absurd hr htx
    rx_playing := fun hr => absurd hr htx }

/-- The list-empty action of every slot of a cycle: the next slot's waveform, the end of the cycle, or the
read-back (46_link_tx.md R234). -/
theorem slotAction (h : TickInv (Machine.halted s)) (hr : s.pins.role = .tx) (hs : s.segs = [])
    (hk : s.txSlot ≤ 13) : TickInv (slotAction s) := by
  have htx : s.pins.role ≠ .rx := by simp [hr]
  have hbyte : ∀ v m, Playable s.cfg (waveByte s.cfg v m) := playable_waveByte h.config
  rcases slotAction_cases s with ⟨-, he⟩ | ⟨-, he⟩ | ⟨h2, he⟩ | ⟨-, hle, he⟩ | ⟨-, he⟩ | ⟨-, -, he⟩ |
    ⟨-, -, he⟩ | ⟨hlt, -⟩
  · rw [he, playHeader_eq]
    exact h.playSlot hr (by omega) (hbyte _ _)
  · have hfold : TickInv (Machine.halted (foldOverlay s)) := { h with }
    rw [he, playFlags_eq]
    exact hfold.playSlot hr (by omega) (hbyte _ _)
  · rw [he, playPayload_eq]
    rcases dequeue_cases s with ⟨-, hq⟩ | ⟨-, hq⟩ <;> rw [hq]
    · have hdequeue : TickInv (Machine.halted { s with txbuf := queuedPayload s, qLen := 0 }) :=
        { h with qLen_le := Nat.zero_le _ }
      exact hdequeue.playSlot hr (by simp only; omega) (hbyte _ _)
    · have hdequeue : TickInv (Machine.halted { s with txbuf := zeros 10 }) := { h with }
      exact hdequeue.playSlot hr (by simp only; omega) (hbyte _ _)
  · rw [he, playPayload_eq]
    exact h.playSlot hr (by omega) (hbyte _ _)
  · rw [he, playParity_eq]
    exact h.playSlot hr (by omega) (hbyte _ _)
  · rw [he]
    exact { h.abandonFrame with
      not_gathering := fun _ => ⟨rfl, rfl⟩
      playing_iff := by simp [hs]
      segs_inRange := by simp [hs]
      segs_le := by simp [hs]
      segRem_range := by simp [hs]
      txSlot_zero := fun _ => rfl
      rx_role := fun hr => absurd hr htx
      rx_playing := fun hr => absurd hr htx }
  · rw [he]
    exact { h with
      idleCtr_le := Nat.zero_le _
      playing_iff := by simp [hs]
      segs_inRange := by simp [hs]
      segs_le := by simp [hs]
      segRem_range := by simp [hs] }
  · omega

/-- The player's list has just been emptied. -/
theorem listEmptyAction (h : TickInv s) (hx : s.txState = .play) :
    TickInv (listEmptyAction { s with segs := [] }) := by
  have hhalt : TickInv (Machine.halted { s with segs := [] }) := h.halted (h.not_gathering_of_play hx)
  rcases listEmptyAction_cases { s with segs := [] } with ⟨hr, he⟩ | ⟨hr, he⟩ <;> rw [he]
  · exact { hhalt with
      txSlot_le := h.txSlot_le
      txSlot_zero := fun _ => (h.rx_role hr).2
      rx_role := fun hr => ⟨by simp, (h.rx_role hr).2⟩ }
  · exact hhalt.slotAction hr rfl h.txSlot_le

theorem sampleOverlay (h : TickInv s) (line : Level) : TickInv (sampleOverlay line s) := by
  rcases sampleOverlay_cases line s with he | ⟨_, _, _, _, -, -, he⟩ <;> rw [he]
  · exact h
  · exact { h with }

theorem sampleOverlay_player (line : Level) (s : State) :
    (Machine.sampleOverlay line s).segs = s.segs ∧
      (Machine.sampleOverlay line s).txState = s.txState := by
  rcases sampleOverlay_cases line s with he | ⟨_, _, _, _, -, -, he⟩ <;> rw [he] <;> exact ⟨rfl, rfl⟩

/-- One tick of the head segment: it goes on, the next one begins, or the list is empty. -/
theorem advance (h : TickInv s) (hx : s.txState = .play) (hs : s.segs ≠ []) :
    TickInv (actIfEmpty (advancePlayer s)) := by
  rcases advancePlayer_cases s with ⟨hnil, -⟩ | ⟨-, hlt, he⟩ | ⟨g, -, -, he⟩ |
    ⟨g, next, rest, hsegs, -, he⟩
  · exact absurd hnil hs
  · rw [he, actIfEmpty, if_neg hs]
    exact { h with
      segRem_range := fun g hg =>
        ⟨Nat.le_sub_of_add_le hlt, (Nat.sub_le _ _).trans (h.segRem_range g hg).2⟩ }
  · rw [he, actIfEmpty, if_pos rfl]
    exact h.listEmptyAction hx
  · rw [he, actIfEmpty, if_neg (by simp)]
    have hmem : ∀ g' ∈ next :: rest, g'.inRange s.cfg := fun g' hg' =>
      h.segs_inRange g' (hsegs ▸ List.mem_cons_of_mem g hg')
    have hle : s.segs.length ≤ 276 := h.segs_le
    rw [hsegs, List.length_cons] at hle
    exact { h with
      playing_iff := iff_of_true hx (by simp)
      segs_inRange := hmem
      segs_le := (Nat.le_succ _).trans hle
      segRem_range := fun g' hg' => by
        obtain rfl : next = g' := by simpa using hg'
        exact ⟨Segment.one_le_length (hmem next (by simp)), Nat.le_refl _⟩ }

theorem playTick (h : TickInv s) (line : Level) : TickInv (playTick line s) := by
  rcases playTick_cases line s with ⟨hx, hs, he⟩ | ⟨-, he⟩ <;> rw [he]
  · obtain ⟨hsegs, hstate⟩ := sampleOverlay_player line s
    exact (h.sampleOverlay line).advance (hstate ▸ hx) (hsegs ▸ hs)
  · exact h

theorem startCycle (h : TickInv s) (hi : txIdle s) : TickInv (startCycle s) := by
  obtain ⟨hr, hx⟩ := hi
  rcases startCycle_cases s with ⟨-, he⟩ | ⟨-, he⟩ <;> rw [he]
  · have hhalt : TickInv (Machine.halted s) := h.halted (not_gathering_of_tx hr (by simp [hx]))
    have hready : TickInv
        (Machine.halted { s with rbVec := 0x00#8, txrSeen := false, idleCtr := 0 }) :=
      { hhalt with idleCtr_le := Nat.zero_le _ }
    exact hready.playSlot hr (Nat.zero_le _) (playable_waveReset h.config)
  · exact { h with idleCtr_le := sat_le _ _ }

theorem transmitPhase {before : TxState} {line : Level} {t : State} (h : TickInv s)
    (hs : transmitPhase before line s = .next t) : TickInv t := by
  rcases transmitPhase_cases hs with ⟨-, rfl⟩ | ⟨-, hi, rfl⟩ | rfl
  · exact h.playTick line
  · exact h.startCycle hi
  · exact h

end TickInv

/-! ### The step -/

/-- After a hardware reset every range is met at 0, whatever the run's constants and inputs and the
software's session are (10_state.md R45). -/
theorem invariant_hardwareReset {s : State} (pins : Option Pins) (hw : s.cfg.wellFormed)
    (hcursor : s.text.cursor ≤ s.text.text.length)
    (hopen : s.text.active = true → s.text.cursor < s.text.text.length)
    (hbound : s.text.text.length ≤ Config.maxTextLen) : Invariant (hardwareReset pins s) where
  config := hw
  tEdge_le := Nat.zero_le _
  idleCtr_le := Nat.zero_le _
  injCtr_le := Nat.zero_le _
  bitIdx_lt := Nat.zero_lt_succ 7
  curByte_lt := Nat.one_pos
  byteIdx_lt := by
    obtain ⟨-, -, hpkt, hburst, -⟩ := hw
    change 0 < frameLen (hardwareReset pins s)
    simp only [frameLen, hardwareReset]
    split <;> omega
  not_gathering := fun _ => ⟨rfl, rfl⟩
  qLen_le := Nat.zero_le _
  owned := BitVec.zero_and
  diag_low := BitVec.zero_and
  rd_high := fun _ => rfl
  playing_iff := by simp [hardwareReset, State.reset]
  segs_inRange := fun g hg => by cases hg
  segs_le := Nat.zero_le _
  segRem_range := fun g hg => by cases hg
  txSlot_le := Nat.zero_le _
  txSlot_zero := fun _ => rfl
  tx_role := fun _ => ⟨rfl, rfl⟩
  rx_role := fun _ => ⟨by simp [hardwareReset, State.reset], rfl⟩
  rx_playing := fun _ _ => rfl
  injCtr_pos := fun hne => absurd rfl hne
  cursor_le := hcursor
  cursor_open := hopen
  text_bounded := hbound
  ephem_empty := rfl

/-- Settles O6: the reset state is what a hardware reset makes of itself. -/
theorem invAtReset : Obligations.InvAtReset :=
  invariant_hardwareReset (s := State.reset) none (by decide) (Nat.zero_le _)
    (fun hopen => by cases hopen) (Nat.zero_le _)

theorem Invariant.takeNewText {s : State} (h : Invariant s) (inp : TickInput) :
    Invariant (takeNewText inp s) := by
  rcases takeNewText_cases inp s with ⟨t, -, he⟩ | ⟨-, he⟩ <;> rw [he]
  · exact h.setText t
  · exact h

/-- Settles O7: a hardware reset meets the invariant anew; in any other tick the host keeps it, the engine's
sub-steps keep `TickInv`, and the falling edge that `RD` waits for has been consumed when the tick ends. -/
theorem stepKeepsInv : Obligations.StepKeepsInv := by
  intro s t h hstep
  cases hr : (nextInput s).rst
  case true =>
    obtain ⟨-, line, -, ⟨-, rfl⟩ | ⟨hno, -⟩⟩ := step_next hstep
    · exact Invariant.takeNewText (invariant_hardwareReset (s := beginTick line s) _ h.config
        h.cursor_le h.cursor_open h.text_bounded) _
    · rw [hr] at hno
      cases hno
  case false =>
    obtain ⟨line, u, b, c, d, -, hu, hb, hc, hd, rfl⟩ := step_next_phases hstep hr
    have hbegin : Invariant (clearPulses (beginTick line s)) := { h with }
    have hhost : Invariant (endTick u) := hbegin.hostEffect (hostEffect_of_hostPhase hu)
    obtain ⟨hclock, hedge⟩ := tickInv_clockStep hhost line
    have hinject : TickInv b := hclock.injectPhase hb
    have htransmit : TickInv d := (hinject.receivePhase hc).transmitPhase hd
    refine htransmit.invariant fun hrd => ?_
    have hkept := transmitPhase_frame hd
    rw [hkept.engineFrame.only.prevLevel]
    exact hinject.receivePhase_rd_high (hedge.injectPhase hb) hc (hkept.linkState ▸ hrd)

end Sys2Proof.Machine
end

section
/-! PROOFS. The family 20_memory.md, a tick: what runs in it and in which order (R70), and the level of the
net (R73, R74; 10_state.md R43). -/

namespace Sys2Proof.Machine

open Sys2Proof

/-! ### The host's part of a step -/

theorem step_of_word {s : State} {line : Level} {word rest : List Byte} {i : Instr}
    (h : plainTick line s) (hf : fetchWord (nextInput s) = some word)
    (hd : decode word = .ok (i, rest)) (hi : hostLevel i = true) :
    step s = andThen (exec i (clearPulses (beginTick line s))) (engine s.txState line) := by
  rw [step_of_plainTick h, hostPhase_of_fetchWord hf, runWord_of_ok hd, if_pos hi]

theorem step_of_silent {s : State} {line : Level} (h : plainTick line s) (hs : hostSilent s) :
    step s = engine s.txState line (clearPulses (beginTick line s)) := by
  rw [step_of_plainTick h, hostPhase_of_silent hs, andThen_next]

theorem hostPhase_of_newText {inp : TickInput} {text : List Byte} (h : inp.host = .newText text)
    (s : State) : hostPhase inp s = .next (setText text s) := by
  rw [hostPhase, h]

theorem step_of_newText {s : State} {line : Level} {text : List Byte} (h : plainTick line s)
    (ht : (nextInput s).host = .newText text) :
    step s = engine s.txState line (setText text (clearPulses (beginTick line s))) := by
  rw [step_of_plainTick h, hostPhase_of_newText ht, andThen_next]

/-- A new text touches the session only. -/
theorem setText_eq (t : List Byte) (s : State) :
    setText t s = { s with
      text := if s.pins.role = .tx ∧ keptText t ≠ [] then ⟨keptText t, 0, true⟩ else s.text } := by
  unfold setText
  split <;> rfl

/-- Settles O1: the branches of the host phase, with the one-tick outputs fallen before it. -/
theorem stepRunsFetchedOperation : Obligations.StepRunsFetchedOperation := by
  intro s line h
  refine ⟨fun word rest i hf hd hi => step_of_word h hf hd hi, step_of_silent h, fun text ht => ?_⟩
  obtain ⟨hbound, hwhole⟩ := keptText_spec text
  refine ⟨keptText text, hbound, hwhole, ?_⟩
  rw [step_of_newText h ht, setText_eq]
  rfl

/-! ### The engine's operations -/

theorem injectPhase_rx {s : State} (h : s.pins.role = .rx) (line : Level) :
    injectPhase line s = exec (.rxInject (.tick line)) s := by
  rw [injectPhase, h]

theorem injectPhase_tx {s : State} (h : s.pins.role = .tx) (line : Level) :
    injectPhase line s = .next s := by
  rw [injectPhase, h]

theorem receivePhase_rising {s : State} {d : Nat} (h : s.ephem = .edge (.rising d)) :
    receivePhase s = exec (symbolInstr s.cfg d) s := by
  rw [receivePhase, edgeInstr, h]

theorem receivePhase_falling {s : State} {d : Nat} (h : s.ephem = .edge (.falling d)) :
    receivePhase s = exec (.falling d) s := by
  rw [receivePhase, edgeInstr, h]

/-- Without an edge the receive path tests for the role's time-out. -/
theorem receivePhase_none {s : State} (h : s.ephem = .edge .none) :
    receivePhase s = exec (timeoutInstr s) s := by
  rw [receivePhase, edgeInstr, h]

theorem timeoutInstr_rx {s : State} (h : s.pins.role = .rx) : timeoutInstr s = .rxTimeout := by
  rw [timeoutInstr, h]

theorem timeoutInstr_tx {s : State} (h : s.pins.role = .tx) : timeoutInstr s = .rbTimeout := by
  rw [timeoutInstr, h]

theorem transmitPhase_play (line : Level) (s : State) :
    transmitPhase .play line s = exec (.playerStep line) s := rfl

theorem transmitPhase_readBack (line : Level) (s : State) :
    transmitPhase .readBack line s = .next s := rfl

theorem transmitPhase_idle_rx {s : State} (h : s.pins.role = .rx) (line : Level) :
    transmitPhase .idle line s = .next s := by
  simp only [transmitPhase, h]

theorem transmitPhase_idle_tx {s : State} (h : s.pins.role = .tx) (line : Level) :
    transmitPhase .idle line s = exec .txStart s := by
  simp only [transmitPhase, h]

/-- Settles O2: the engine is its sub-steps in their order, and each sub-step selects its operation by the
role, the edge handed on, or the earlier `tx_state`. -/
theorem engineRunsItsOperations : Obligations.EngineRunsItsOperations := by
  refine ⟨fun _ _ _ => rfl, fun line s hr => ?_, fun line s hr => ?_, fun line s d => ?_⟩
  · refine ⟨injectPhase_rx hr line, fun he => ?_, transmitPhase_idle_rx hr line⟩
    rw [receivePhase_none he, timeoutInstr_rx hr]
  · refine ⟨injectPhase_tx hr line, fun he => ?_, transmitPhase_idle_tx hr line⟩
    rw [receivePhase_none he, timeoutInstr_tx hr]
  · exact ⟨receivePhase_rising, receivePhase_falling, transmitPhase_play line s,
      transmitPhase_readBack line s⟩

/-! ### The level of the net and the block's drive -/

section
variable {drives : List Drive} (prev : Level)

theorem benchNet_high (hh : .high ∈ drives) (hl : .low ∉ drives) :
    benchNet drives prev = some .high := by
  rw [benchNet, if_pos hh, if_neg hl]

theorem benchNet_low (hl : .low ∈ drives) (hh : .high ∉ drives) :
    benchNet drives prev = some .low := by
  rw [benchNet, if_neg hh, if_pos hl]

theorem benchNet_keeps (hh : .high ∉ drives) (hl : .low ∉ drives) :
    benchNet drives prev = some prev := by
  rw [benchNet, if_neg hh, if_neg hl]

theorem benchNet_contention (hh : .high ∈ drives) (hl : .low ∈ drives) :
    benchNet drives prev = none := by
  rw [benchNet, if_pos hh, if_pos hl]

end

section
variable {s : State}

theorem lineDrive_of_inject (h : s.injState = .drive) : lineDrive s = .high := if_pos h

theorem lineDrive_of_segment {g : Segment} {rest : List Segment} (hi : s.injState ≠ .drive)
    (hx : s.txState = .play) (hs : s.segs = g :: rest) : lineDrive s = g.lineDrive := by
  rw [lineDrive, if_neg hi, if_pos hx, hs]

theorem lineDrive_of_released (hi : s.injState ≠ .drive) (h : s.txState ≠ .play ∨ s.segs = []) :
    lineDrive s = .released := by
  rw [lineDrive, if_neg hi]
  split
  case isTrue hx => rw [h.resolve_left (not_not_intro hx)]
  case isFalse => rfl

theorem lineOe_eq_false_iff : lineOe s = false ↔ lineDrive s = .released := by
  simp [lineOe]

theorem pins_of_low (h : lineDrive s = .low) : lineOe s = true ∧ lineOut s = .low := by
  simp [lineOe, lineOut, h]

theorem pins_of_high (h : lineDrive s = .high) : lineOe s = true ∧ lineOut s = .high := by
  simp [lineOe, lineOut, h]

theorem pins_of_released (h : lineDrive s = .released) : lineOe s = false ∧ lineOut s = .high := by
  simp [lineOe, lineOut, h]

/-- While the line is driven its two pins show the drive. -/
theorem lineOut_of_driven (h : lineOe s = true) :
    (lineDrive s = .low ↔ lineOut s = .low) ∧ (lineDrive s = .high ↔ lineOut s = .high) := by
  cases hd : lineDrive s
  case released => simp [lineOe, hd] at h
  all_goals simp [lineOut, hd]

end

/-- Settles O4: one rule for each case of the net, and the pins by the drive of the inject, of the head
segment, or of nobody. -/
theorem benchNetLevel : Obligations.BenchNetLevel := by
  refine ⟨fun drives prev => ⟨benchNet_high prev, benchNet_low prev, benchNet_keeps prev,
    benchNet_contention prev⟩, fun s => ⟨fun h => pins_of_high (lineDrive_of_inject h), ?_,
    fun hi h => (pins_of_released (lineDrive_of_released hi h)).1,
    fun h => (pins_of_released (lineOe_eq_false_iff.1 h)).2, lineOe_eq_false_iff,
    fun h => (lineOut_of_driven h).1, fun h => (lineOut_of_driven h).2⟩, by decide⟩
  intro hi hx n i k rest
  refine ⟨fun hs => pins_of_low (lineDrive_of_segment hi hx hs),
    fun hs => pins_of_high (lineDrive_of_segment hi hx hs), ?_⟩
  rintro (hs | hs) <;> exact (pins_of_released (lineDrive_of_segment hi hx hs)).1

end Sys2Proof.Machine
end

section
/-! PROOFS. The family 20_memory.md, bytes of a frame: eight bits, bit 0 first, are a byte in `pkt[byte_idx]`
(R62), and the bytes of a packet one after another are its header, its payload and its parity (R63, R64). -/

namespace Sys2Proof.Machine

open Sys2Proof

/-! ### A byte, bit by bit (20_memory.md R62) -/

/-- The byte under assembly when the first `n` bits of `v` have come: those bits, zeros above. -/
def lowBits (v : Byte) (n : Nat) : Byte := (v.setWidth n).setWidth 8

theorem getLsbD_lowBits (v : Byte) (n j : Nat) :
    (lowBits v n).getLsbD j = (decide (j < n) && v.getLsbD j) := by
  simp only [lowBits, BitVec.getLsbD_setWidth]
  by_cases hj : j < 8
  · simp [hj]
  · simp [hj, BitVec.getLsbD_of_ge v j (by omega)]

@[simp] theorem lowBits_zero (v : Byte) : lowBits v 0 = 0x00#8 :=
  BitVec.eq_of_getLsbD_eq fun j _ => by simp [getLsbD_lowBits]

@[simp] theorem lowBits_eight (v : Byte) : lowBits v 8 = v :=
  BitVec.eq_of_getLsbD_eq fun j hj => by rw [getLsbD_lowBits, decide_eq_true hj, Bool.true_and]

theorem getLsbD_bit_shiftLeft (b : Bool) (n : Nat) {j : Nat} (hj : j < 8) :
    ((if b then 1#8 else 0#8) <<< n).getLsbD j = (b && decide (j = n)) := by
  cases b
  · simp
  · exact (getLsbD_one_shiftLeft hj).trans (Bool.true_and _).symm

/-- Joining bit `n` of the byte adds exactly that bit to the ones below it. -/
theorem lowBits_succ (v : Byte) (n : Nat) :
    lowBits v n ||| ((if bitOf v n then 1#8 else 0#8) <<< n) = lowBits v (n + 1) := by
  refine BitVec.eq_of_getLsbD_eq fun j hj => ?_
  rw [BitVec.getLsbD_or, getLsbD_bit_shiftLeft _ _ hj, getLsbD_lowBits, getLsbD_lowBits, bitOf]
  rcases Nat.lt_trichotomy j n with hlt | rfl | hgt
  · simp [hlt, Nat.lt_succ_of_lt hlt, Nat.ne_of_lt hlt]
  · simp
  · simp [Nat.not_lt_of_lt hgt, Nat.not_lt_of_le hgt, Nat.ne_of_gt hgt]

/-- `s` with the first `n` bits of `v` under assembly. -/
def partByte (v : Byte) (n : Nat) (s : State) : State :=
  { s with curByte := lowBits v n, bitIdx := n }

/-- `s` with one more byte of the frame in `pkt` (41_packet_assembler.md R141). -/
def storeByte (v : Byte) (s : State) : State :=
  { s with pkt := putByte s.pkt s.byteIdx v, byteIdx := s.byteIdx + 1 }

/-- Between two bytes of a frame that is not full (41_packet_assembler.md R140, R141). -/
structure ByteBoundary (s : State) : Prop where
  bitIdx : s.bitIdx = 0
  curByte : s.curByte = 0x00#8
  openFrame : s.byteIdx < frameLen s

theorem completeIfFull_of_ne {s : State} (h : s.byteIdx ≠ frameLen s) : completeIfFull s = s := if_neg h

theorem assembleBit_of_lt {s : State} (h : s.byteIdx < frameLen s) (b : Bool) :
    assembleBit b s = completeIfFull (appendBit b s) := if_pos h

theorem partByte_zero {s : State} (h : ByteBoundary s) (v : Byte) : partByte v 0 s = s := by
  obtain ⟨hbit, hcur, -⟩ := h
  rw [partByte, lowBits_zero, ← hcur, ← hbit]

theorem withBit_partByte (v : Byte) (n : Nat) (s : State) :
    withBit (bitOf v n) (partByte v n s) = lowBits v (n + 1) := lowBits_succ v n

/-- One of the first seven bits of a byte stays under assembly. -/
theorem assembleBit_partByte {s : State} (h : ByteBoundary s) (v : Byte) {n : Nat} (hn : n < 7) :
    assembleBit (bitOf v n) (partByte v n s) = partByte v (n + 1) s := by
  have happend : appendBit (bitOf v n) (partByte v n s) = partByte v (n + 1) s := by
    rw [appendBit, if_pos (show (partByte v n s).bitIdx < 7 from hn), withBit_partByte]
    rfl
  rw [assembleBit_of_lt (show (partByte v n s).byteIdx < _ from h.openFrame), happend]
  exact completeIfFull_of_ne (Nat.ne_of_lt h.openFrame)

/-- The eighth bit stores the byte and tests for the end of the frame. -/
theorem assembleBit_partByte_last {s : State} (h : ByteBoundary s) (v : Byte) :
    assembleBit (bitOf v 7) (partByte v 7 s) = completeIfFull (storeByte v s) := by
  have happend : appendBit (bitOf v 7) (partByte v 7 s) = storeByte v s := by
    rw [appendBit, if_neg (show ¬ (partByte v 7 s).bitIdx < 7 from Nat.lt_irrefl 7), withBit_partByte,
      lowBits_eight, ← h.curByte, ← h.bitIdx]
    rfl
  rw [assembleBit_of_lt (show (partByte v 7 s).byteIdx < _ from h.openFrame), happend]

/-- The first `n` bits of `v` appended, bit 0 first. -/
def assembleBits (v : Byte) : Nat → State → State
  | 0, s => s
  | n + 1, s => assembleBit (bitOf v n) (assembleBits v n s)

theorem assembleByte_eq_assembleBits (v : Byte) (s : State) : assembleByte v s = assembleBits v 8 s := rfl

theorem assembleBits_eq_partByte {s : State} (h : ByteBoundary s) (v : Byte) {n : Nat} (hn : n ≤ 7) :
    assembleBits v n s = partByte v n s := by
  induction n with
  | zero => exact (partByte_zero h v).symm
  | succ n ih => rw [assembleBits, ih (by omega), assembleBit_partByte h v (by omega)]

/-- A byte from boundary to boundary: stored, and the frame completed if it was its last byte. -/
theorem assembleByte_of_boundary {s : State} (h : ByteBoundary s) (v : Byte) :
    assembleByte v s = completeIfFull (storeByte v s) := by
  rw [assembleByte_eq_assembleBits, assembleBits, assembleBits_eq_partByte h v (Nat.le_refl 7),
    assembleBit_partByte_last h]

/-- Settles O25, from the assembly of a byte bit by bit: one byte more leaves the frame short. -/
theorem receivedByteIsStored : Obligations.ReceivedByteIsStored := by
  intro s v hbit hcur hshort
  have hstored : assembleByte v s = storeByte v s := by
    rw [assembleByte_of_boundary ⟨hbit, hcur, by omega⟩]
    exact completeIfFull_of_ne (Nat.ne_of_lt hshort)
  exact congrArg Host.Outcome.next hstored


/-! ### The 104 symbols of a packet (20_memory.md R63, R64; 45_link_rx.md R208, R209) -/

theorem execAll_singleton (i : Instr) (s : State) : execAll [i] s = exec i s := by
  obtain ⟨t, ht⟩ := exec_next i s
  simp [execAll, ht]

theorem execAll_append (is js : List Instr) (s : State) :
    execAll (is ++ js) s = andThen (execAll is s) (execAll js) := by
  induction is generalizing s with
  | nil => rfl
  | cons i is ih => cases h : exec i s <;> simp [execAll, h, ih]

/-- A receiver in the middle of a frame, to which LOW times of `d1` and of `d0` ticks are a `ONE` and a
`ZERO`. -/
structure ReceivesBits (d1 d0 : Nat) (s : State) : Prop where
  listening : listening s
  gathering : s.linkState = .gatheringPacket
  one : classify s.cfg d1 = .one
  zero : classify s.cfg d0 = .zero

theorem exec_bitInstr {d1 d0 : Nat} {s : State} (h : ReceivesBits d1 d0 s) (b : Bool) :
    exec (bitInstr d1 d0 b) s = .next (assembleBit b s) := by
  have hconsume : consumeBit b s = assembleBit b s := if_pos ⟨h.listening, h.gathering⟩
  cases b
  · simp [bitInstr, exec, execZero, h.zero, hconsume]
  · simp [bitInstr, exec, execOne, h.one, hconsume]

theorem ReceivesBits.partByte {d1 d0 : Nat} {s : State} (h : ReceivesBits d1 d0 s) (v : Byte) (n : Nat) :
    ReceivesBits d1 d0 (partByte v n s) := { h with }

theorem ReceivesBits.storeByte {d1 d0 : Nat} {s : State} (h : ReceivesBits d1 d0 s) (v : Byte) :
    ReceivesBits d1 d0 (storeByte v s) := { h with }

/-- The symbols of the first bits of a byte append these bits, as none but the eighth can end the frame. -/
theorem execAll_firstBits {d1 d0 : Nat} {s : State} (h : ReceivesBits d1 d0 s) (hb : ByteBoundary s)
    (v : Byte) {n : Nat} (hn : n ≤ 8) :
    execAll (((List.range n).map (bitOf v)).map (bitInstr d1 d0)) s = .next (assembleBits v n s) := by
  induction n with
  | zero => rfl
  | succ n ih =>
    have hlast : exec (bitInstr d1 d0 (bitOf v n)) (assembleBits v n s) =
        .next (assembleBits v (n + 1) s) := by
      rw [assembleBits, assembleBits_eq_partByte hb v (by omega)]
      exact exec_bitInstr (h.partByte v n) _
    rw [List.range_succ, List.map_append, List.map_append, execAll_append, ih (by omega), andThen_next,
      List.map_singleton, List.map_singleton, execAll_singleton, hlast]

/-- The eight symbols of a byte are the byte as received. -/
theorem execAll_byteBits {d1 d0 : Nat} {s : State} (h : ReceivesBits d1 d0 s) (hb : ByteBoundary s)
    (v : Byte) :
    execAll ((byteBits v).map (bitInstr d1 d0)) s = .next (completeIfFull (storeByte v s)) := by
  rw [← assembleByte_of_boundary hb, assembleByte_eq_assembleBits]
  exact execAll_firstBits h hb v (Nat.le_refl 8)

/-- `s` with more bytes of the frame in `pkt`. -/
def storeBytes (l : List Byte) (s : State) : State := l.foldl (fun u v => storeByte v u) s

/-- The symbols of bytes that leave the frame short store these bytes. -/
theorem execAll_flatMap_byteBits {d1 d0 : Nat} {s : State} (h : ReceivesBits d1 d0 s)
    (hb : ByteBoundary s) (l : List Byte) (hl : s.byteIdx + l.length < frameLen s) :
    execAll ((l.flatMap byteBits).map (bitInstr d1 d0)) s = .next (storeBytes l s) ∧
      ReceivesBits d1 d0 (storeBytes l s) ∧ ByteBoundary (storeBytes l s) := by
  induction l generalizing s with
  | nil => exact ⟨rfl, h, hb⟩
  | cons v l ih =>
    have hl' : (storeByte v s).byteIdx + l.length < frameLen s := by
      simp only [storeByte, List.length_cons] at hl ⊢; omega
    have hlt : (storeByte v s).byteIdx < frameLen s := by omega
    have hboundary : ByteBoundary (storeByte v s) := ⟨hb.bitIdx, hb.curByte, hlt⟩
    have hfirst : execAll ((byteBits v).map (bitInstr d1 d0)) s = .next (storeByte v s) := by
      rw [execAll_byteBits h hb, completeIfFull_of_ne (Nat.ne_of_lt hlt)]
    rw [List.flatMap_cons, List.map_append, execAll_append, hfirst, andThen_next]
    exact ih (h.storeByte v) hboundary hl'

/-- The symbols of bytes of which only the last can end the frame. -/
theorem execAll_frameBits {d1 d0 : Nat} {s : State} (h : ReceivesBits d1 d0 s) (hb : ByteBoundary s)
    (l : List Byte) (v : Byte) (hl : s.byteIdx + l.length < frameLen s) :
    execAll (((l ++ [v]).flatMap byteBits).map (bitInstr d1 d0)) s =
      .next (completeIfFull (storeBytes (l ++ [v]) s)) := by
  obtain ⟨hfront, h', hb'⟩ := execAll_flatMap_byteBits h hb l hl
  have hlast : storeBytes (l ++ [v]) s = storeByte v (storeBytes l s) := List.foldl_concat ..
  rw [List.flatMap_append, List.map_append, execAll_append, hfront, andThen_next,
    List.flatMap_singleton, execAll_byteBits h' hb', hlast]

/-- After a write the buffer begins with the bytes before it and the byte written. -/
theorem take_putByte {n : Nat} (buf : Vector Byte n) {i : Nat} (v : Byte) (hi : i < n) :
    (putByte buf i v).toList.take (i + 1) = buf.toList.take i ++ [v] := by
  rw [putByte, Vector.toList_setIfInBounds, List.take_succ_eq_append_getElem (by simp [hi]),
    List.take_set_of_le (Nat.le_refl i), List.getElem_set_self]

/-- A list as long as the buffer is all of it. -/
theorem bufOfList_toList_of_length {n : Nat} {l : List Byte} (hl : l.length = n) :
    (bufOfList n l).toList = l := by
  rw [bufOfList_toList hl.le, hl, Nat.sub_self, List.replicate_zero, List.append_nil]

/-- Stored bytes change `pkt` and `byte_idx` only, and follow the bytes that stood before `byte_idx`. -/
theorem storeBytes_eq (l : List Byte) {s : State} (hl : s.byteIdx + l.length ≤ 13) :
    ∃ buf, storeBytes l s = { s with pkt := buf, byteIdx := s.byteIdx + l.length } ∧
      buf.toList.take (s.byteIdx + l.length) = s.pkt.toList.take s.byteIdx ++ l := by
  induction l generalizing s with
  | nil => exact ⟨s.pkt, rfl, (List.append_nil _).symm⟩
  | cons v l ih =>
    have hidx : (storeByte v s).byteIdx + l.length = s.byteIdx + (v :: l).length := by
      simp only [storeByte, List.length_cons]; omega
    obtain ⟨buf, hstore, hbytes⟩ := ih (s := storeByte v s) (by omega)
    rw [hidx] at hstore hbytes
    refine ⟨buf, hstore, ?_⟩
    have hput : (storeByte v s).pkt.toList.take (storeByte v s).byteIdx =
        s.pkt.toList.take s.byteIdx ++ [v] :=
      take_putByte s.pkt v (by rw [List.length_cons] at hl; omega)
    rw [hbytes, hput, List.append_assoc, List.singleton_append]

/-- Thirteen bytes from the start of a frame are the whole of `pkt`. -/
theorem storeBytes_packet {l : List Byte} {s : State} (hbyte : s.byteIdx = 0) (hl : l.length = 13) :
    storeBytes l s = { s with pkt := bufOfList 13 l, byteIdx := 13 } := by
  have hall : s.byteIdx + l.length = 13 := by rw [hbyte, hl]
  obtain ⟨buf, hstore, hbytes⟩ := storeBytes_eq l hall.le
  rw [hall] at hstore hbytes
  have hbuf : buf.toList = l := by
    rwa [List.take_of_length_le (by simp), hbyte, List.take_zero, List.nil_append] at hbytes
  rw [hstore, Vector.toList_inj.1 (hbuf.trans (bufOfList_toList_of_length hl).symm)]

/-- The full frame of a receiver completes as a packet (41_packet_assembler.md R143). -/
theorem completeIfFull_of_packet {s : State} (hr : s.pins.role = .rx) (h : s.byteIdx = frameLen s) :
    completeIfFull s = finishPacket s := by
  rcases completeIfFull_cases s with ⟨-, -, hc⟩ | ⟨htx, -⟩ | ⟨hshort, -⟩
  · exact hc
  · simp [hr] at htx
  · simp [hr] at hshort
    exact absurd h hshort

/-- The places of the header bytes, the payload and the parity in `pkt` (20_memory.md R64). -/
theorem packet_map {s : State} {a f x : Byte} {p : List Byte}
    (hpkt : s.pkt.toList = [a, f] ++ p ++ [x]) (hp : p.length = 10) :
    byteAt s.pkt 0 = a ∧ byteAt s.pkt 1 = f ∧ packetPayload s = p ∧ byteAt s.pkt 12 = x := by
  simp [byteAt, packetPayload, hpkt, hp]

/-- An accepted packet without a reply is delivered (41_packet_assembler.md R144). -/
theorem finishPacket_of_accepted {s : State} (hr : s.pins.role = .rx) (hgate : gateOpen s = true)
    (hparity : packetParityOk s = true) (hreply : s.pins.replyEn = false) :
    finishPacket s = { deliverPacket s with byteIdx := 0, linkState := .awaitingSync } := by
  have hno : replyIfGranted (deliverPacket s) = deliverPacket s :=
    if_neg fun h => by simp [replyGranted, hreply] at h
  simp [finishPacket, hgate, hparity, hno, toRestart, hr]

/-- A gathered packet with `HOST_READY` and its own parity delivers its header and payload
(41_packet_assembler.md R144). -/
theorem finishPacket_delivers {s : State} {a f : Byte} {p : List Byte}
    (hpkt : s.pkt.toList = [a, f] ++ p ++ [xorFold p]) (hp : p.length = 10) (hf : bitOf f 7 = true)
    (hr : s.pins.role = .rx) (hreply : s.pins.replyEn = false) :
    finishPacket s = { s with
      hdrARx := a, peerFlags := f, rxPayload := bufOfList 10 p, rxValid := true, byteIdx := 0,
      linkState := .awaitingSync } := by
  obtain ⟨h0, h1, hpayload, hlast⟩ := packet_map hpkt hp
  have hgate : gateOpen s = true := by rw [gateOpen, h1, hf]
  have hparity : packetParityOk s = true := by rw [packetParityOk, hlast, hpayload, beq_self_eq_true]
  rw [finishPacket_of_accepted hr hgate hparity hreply, deliverPacket, h0, h1, hpayload]

/-- Settles O55, byte after byte: the first twelve bytes leave the frame short and are stored, the last one
is stored and completes the frame, whose bytes are then those of the packet. -/
theorem symbolsDeliverPacket : Obligations.SymbolsDeliverPacket := by
  intro s a f p d1 d0 hr hidle hgp hbit hbyte hcur hlen hreply h1 h0 hp hf
  have hframe : frameLen s = 13 := by rw [frameLen, hr, hlen]
  have hreceives : ReceivesBits d1 d0 s := ⟨⟨hr, hidle⟩, hgp, h1, h0⟩
  have hboundary : ByteBoundary s := ⟨hbit, hcur, by omega⟩
  have hfront : s.byteIdx + ([a, f] ++ p).length < frameLen s := by simp [hframe, hbyte, hp]
  have hlength : ([a, f] ++ p ++ [xorFold p]).length = 13 := by simp [hp]
  have hpkt := bufOfList_toList_of_length hlength
  rw [execAll_frameBits hreceives hboundary ([a, f] ++ p) (xorFold p) hfront,
    storeBytes_packet hbyte hlength, completeIfFull_of_packet (by exact hr) (by exact hframe.symm),
    finishPacket_delivers (by exact hpkt) hp hf (by exact hr) (by exact hreply), ← hbyte]

end Sys2Proof.Machine
end

section
/-! PROOFS. The family 30_encoding.md: the model's operation words read back what is written (R80) and
answer well-formed operations only, the port's signals select the host command (R91), and a few words
written out (R88 to R91). -/

namespace Sys2Proof.Machine

open Sys2Proof

/-! ### Operand bytes read back -/

@[simp] theorem levelOfByte_toByte (l : Level) : levelOfByte l.toByte = some l := by
  cases l <;> rfl

@[simp] theorem boolOfByte_byteOfBool (b : Bool) : boolOfByte (byteOfBool b) = some b := by
  cases b <;> rfl

@[simp] theorem flagFormOfByte_toByte (f : FlagForm) : flagFormOfByte f.toByte = some f := by
  cases f <;> rfl

@[simp] theorem legOfByte_toByte (leg : Leg) : legOfByte leg.toByte = some leg := by
  cases leg <;> rfl

@[simp] theorem hdrSourceOfByte_toByte (src : HdrSource) : hdrSourceOfByte src.toByte = some src := by
  cases src <;> rfl

/-- Number and byte agree below 256. -/
theorem toNat_byteOfNat {n : Nat} (h : n < 256) : (BitVec.ofNat 8 n).toNat = n := by
  rw [BitVec.toNat_ofNat, Nat.mod_eq_of_lt (by omega)]

theorem join16_split16 {d : Nat} (h : d < 65536) :
    join16 (BitVec.ofNat 8 (d % 256)) (BitVec.ofNat 8 (d / 256)) = d := by
  rw [join16, toNat_byteOfNat (by omega), toNat_byteOfNat (by omega)]
  omega

theorem join16_lt (lo hi : Byte) : join16 lo hi < 65536 := by
  unfold join16
  omega

/-- Taking `n` bytes cuts the list after `n` bytes, and succeeds where it has as many. -/
theorem takeBytes_eq_some_iff {n : Nat} {l front rest : List Byte} :
    takeBytes n l = some (front, rest) ↔ l = front ++ rest ∧ front.length = n := by
  constructor
  case mpr =>
    rintro ⟨rfl, rfl⟩
    exact takeBytes_append front rest
  case mp =>
    induction n generalizing l front with
    | zero =>
      intro h
      obtain ⟨rfl, rfl⟩ : [] = front ∧ l = rest := by simpa [takeBytes] using h
      exact ⟨rfl, rfl⟩
    | succ n ih =>
      cases l with
      | nil => simp [takeBytes]
      | cons b l =>
        intro h
        simp only [takeBytes] at h
        split at h
        · next front' rest' htail =>
          obtain ⟨rfl, rfl⟩ : b :: front' = front ∧ rest' = rest := by simpa using h
          obtain ⟨rfl, hlength⟩ := ih htail
          exact ⟨rfl, by simp [hlength]⟩
        · cases h

theorem length_of_takeBytes {n : Nat} {l front rest : List Byte}
    (h : takeBytes n l = some (front, rest)) : front.length = n :=
  (takeBytes_eq_some_iff.mp h).2

theorem takeBytes_append_of_length {n : Nat} {front : List Byte} (h : front.length = n)
    (rest : List Byte) : takeBytes n (front ++ rest) = some (front, rest) :=
  takeBytes_eq_some_iff.mpr ⟨rfl, h⟩

/-! ### The round trip of each format -/

/-- The format byte hands the word to the decoder of its format; the bare form alone looks at the code
byte for it (log entry 7). -/
theorem decode_of_format (format : WordFormat) {fmt : Byte} (h : formatOfByte fmt = some format)
    (hbare : format ≠ .bare) (code : Byte) (rest : List Byte) :
    decode (code :: fmt :: rest) = decodeIn format code rest := by
  cases format
  case bare => exact absurd rfl hbare
  all_goals simp only [decode, h]

/-- 30_encoding.md R91: `cmd_op` below 8 and `cmd_len` below 16 are all that the port can present. -/
theorem decode_encodeHostop (op arg : Byte) {len : Byte} {data : List Byte} (hop : op.toNat < 8)
    (hlen : len.toNat < 16) (hdata : data.length = 10) (rest : List Byte) :
    decode (encodeHostop op arg len data ++ rest) =
      .ok (hostopRow (op.setWidth 3) arg len.toNat data, rest) := by
  have hformat : decode (encodeHostop op arg len data ++ rest) =
      decodeHostop op (arg :: len :: (data ++ rest)) :=
    decode_of_format .hostop rfl (by decide) op _
  rw [hformat]
  simp only [decodeHostop, takeBytes_append_of_length hdata]
  rw [if_neg (by omega), if_neg (by omega)]

/-- A host command without data: the unused operands are written as zeros. -/
theorem decode_encodeHostop_noData {op : Byte} (hop : op.toNat < 8) (arg : Byte) (rest : List Byte) :
    decode (encodeHostop op arg 0x00#8 noData ++ rest) =
      .ok (hostopRow (op.setWidth 3) arg 0 noData, rest) :=
  decode_encodeHostop op arg hop (by decide) (by decide) rest

theorem decode_encodeCmdid {id : Byte} {leg : Leg} {data : List Byte} {i : Instr}
    (hrow : cmdidRow id leg data = some i) (hdata : data.length = 9) (rest : List Byte) :
    decode (encodeCmdid id leg data ++ rest) = .ok (i, rest) := by
  have hformat : decode (encodeCmdid id leg data ++ rest) =
      decodeCmdid id (leg.toByte :: (data ++ rest)) :=
    decode_of_format .cmdid rfl (by decide) id _
  rw [hformat]
  simp only [decodeCmdid, legOfByte_toByte, takeBytes_append_of_length hdata, hrow]

theorem decodeFlag_toByte {row : Byte → FlagForm → Option Instr} {code : Byte} {f : FlagForm}
    {i : Instr} (hrow : row code f = some i) (rest : List Byte) :
    decodeFlag row code (f.toByte :: rest) = .ok (i, rest) := by
  simp only [decodeFlag, flagFormOfByte_toByte, hrow]

theorem decode_hflagWord {code : Byte} {f : FlagForm} {i : Instr} (hrow : hflagRow code f = some i)
    (rest : List Byte) : decode ([code, 0x03#8, f.toByte] ++ rest) = .ok (i, rest) :=
  (decode_of_format .hflag rfl (by decide) code _).trans (decodeFlag_toByte hrow rest)

theorem decode_rflagWord {code : Byte} {f : FlagForm} {i : Instr} (hrow : rflagRow code f = some i)
    (rest : List Byte) : decode ([code, 0x04#8, f.toByte] ++ rest) = .ok (i, rest) :=
  (decode_of_format .rflag rfl (by decide) code _).trans (decodeFlag_toByte hrow rest)

/-- The operand bytes of a symbol's form: what stands behind the code and the format byte. -/
def pulseOperands : PulseForm → List Byte
  | .decoded d => 0x00#8 :: split16 d
  | .transmitted => [0x01#8]
  | .overlay i => [0x02#8, BitVec.ofNat 8 i]

theorem encodePulse_eq (code : Byte) (f : PulseForm) :
    encodePulse code f = code :: 0x05#8 :: pulseOperands f := by
  cases f <;> rfl

theorem decodePulseForm_operands {mayOverlay : Bool} {f : PulseForm}
    (hf : f.wellFormed mayOverlay = true) (rest : List Byte) :
    decodePulseForm (pulseOperands f ++ rest) = .ok (f, rest) := by
  cases f with
  | decoded d =>
    have hd : d < 65536 := by simp_all [PulseForm.wellFormed]
    have hread : decodePulseForm (pulseOperands (.decoded d) ++ rest) =
        .ok (.decoded (join16 (BitVec.ofNat 8 (d % 256)) (BitVec.ofNat 8 (d / 256))), rest) := rfl
    rw [hread, join16_split16 hd]
  | transmitted => rfl
  | overlay i =>
    have hi : i < 8 := by simp_all [PulseForm.wellFormed]
    have hread : decodePulseForm (pulseOperands (.overlay i) ++ rest) =
        .ok (.overlay (BitVec.ofNat 8 i).toNat, rest) := rfl
    rw [hread, toNat_byteOfNat (by omega)]

/-- The symbol decoder rejects an ill-formed operand, so the round trip asks for a well-formed one
(30_encoding.md R81, R82). -/
theorem decode_encodePulse {code : Byte} {f : PulseForm} {i : Instr} {mayOverlay : Bool}
    (hrow : symbolRow code f = some i) (hf : f.wellFormed mayOverlay = true)
    (hi : i.wellFormed = true) (rest : List Byte) :
    decode (encodePulse code f ++ rest) = .ok (i, rest) := by
  have hformat : decode (code :: 0x05#8 :: (pulseOperands f ++ rest)) =
      decodePulse code (pulseOperands f ++ rest) :=
    decode_of_format .pulse rfl (by decide) code _
  rw [encodePulse_eq, List.cons_append, List.cons_append, hformat]
  simp only [decodePulse, decodePulseForm_operands hf, hrow, if_pos hi]

theorem decode_packetWord {p : List Byte} (hp : p.length = 10) (a f m : Byte) (rest : List Byte) :
    decode (encode (.packet (.sent a f p m)) ++ rest) = .ok (.packet (.sent a f p m), rest) := by
  have hformat : decode (encode (.packet (.sent a f p m)) ++ rest) =
      decodeFrame 0x01#8 (0x00#8 :: a :: f :: m :: (p ++ rest)) :=
    decode_of_format .frame rfl (by decide) 0x01#8 _
  rw [hformat]
  simp [decodeFrame, takeBytes_append_of_length hp]

theorem decode_burstWord {p : List Byte} (hp : p.length = 10) (rest : List Byte) :
    decode (encode (.burst (.sent p)) ++ rest) = .ok (.burst (.sent p), rest) := by
  have hformat : decode (encode (.burst (.sent p)) ++ rest) =
      decodeFrame 0x02#8 (0x00#8 :: (p ++ rest)) :=
    decode_of_format .frame rfl (by decide) 0x02#8 _
  rw [hformat]
  simp [decodeFrame, takeBytes_append_of_length hp]

theorem decode_encodeEvent (code : Byte) (operands rest : List Byte) :
    decode (encodeEvent code operands ++ rest) = decodeEvent code (operands ++ rest) :=
  decode_of_format .event rfl (by decide) code _

theorem decodeOperand_of_read {α : Type} {read : Byte → Option α} {b : Byte} {a : α}
    (h : read b = some a) (make : α → Instr) (rest : List Byte) :
    decodeOperand read make (b :: rest) = .ok (make a, rest) := by
  rw [decodeOperand, h]

/-- An event whose one operand is a byte. -/
theorem decode_operandEvent {α : Type} {code b : Byte} {read : Byte → Option α} {make : α → Instr}
    {a : α} (hcode : ∀ bytes, decodeEvent code bytes = decodeOperand read make bytes)
    (hread : read b = some a) (rest : List Byte) :
    decode (encodeEvent code [b] ++ rest) = .ok (make a, rest) := by
  rw [decode_encodeEvent, hcode]
  exact decodeOperand_of_read hread make rest

theorem decode_fallingWord {d : Nat} (hd : d < 65536) (rest : List Byte) :
    decode (encode (.falling d) ++ rest) = .ok (.falling d, rest) := by
  have hread : decode (encode (.falling d) ++ rest) =
      .ok (.falling (join16 (BitVec.ofNat 8 (d % 256)) (BitVec.ofNat 8 (d / 256))), rest) :=
    decode_encodeEvent 0x01#8 _ _
  rw [hread, join16_split16 hd]

theorem decode_parFoldWord {bytes : List Byte} (hlength : bytes.length < 256) (rest : List Byte) :
    decode (encode (.parFold bytes) ++ rest) = .ok (.parFold bytes, rest) := by
  have hformat : decode (encode (.parFold bytes) ++ rest) =
      decodeEvent 0x06#8 (BitVec.ofNat 8 bytes.length :: (bytes ++ rest)) :=
    decode_encodeEvent 0x06#8 _ _
  have hcount : (BitVec.ofNat 8 bytes.length).toNat = bytes.length := toNat_byteOfNat hlength
  rw [hformat]
  simp only [decodeEvent, hcount, takeBytes_append]
  rfl

/-- Settles O9: each operation by the round trip of its format; its well-formedness says that the operands
fit their fields. -/
theorem decodeOfEncode : Obligations.DecodeOfEncode := by
  intro i rest h
  cases i with
  | reset f | one f | zero f => exact decode_encodePulse rfl h h rest
  | byte f => cases f <;> rfl
  | packet f =>
    cases f with
    | sent a f p m => exact decode_packetWord (of_decide_eq_true h) a f m rest
    | received => rfl
  | burst f =>
    cases f with
    | sent p => exact decode_burstWord (of_decide_eq_true h) rest
    | received => rfl
  | hostReady f | dataAvail f | busAvail f | errorHost f => exact decode_hflagWord rfl rest
  | txReady f | readyForText f | timerRequest f | errorRemote f | isInit f =>
    exact decode_rflagWord rfl rest
  | cmdCapabilities leg data | cmdDisplayMode leg data | cmdBacklight leg data | cmdVolume leg data
  | cmdPlayMode leg data | cmdRecMode leg data | cmdBattery leg data | cmdEq leg data
  | cmdAlarm leg data | cmdTrack leg data | cmdPlayState leg data | cmdDisplay leg data
  | cmdText leg data | cmdRequestWriteAddress leg data | cmdTrackCount leg data
  | cmdSetTrack leg data => exact decode_encodeCmdid rfl (of_decide_eq_true h) rest
  | send len data =>
    obtain ⟨hlen, hdata⟩ : len < 16 ∧ data.length = 10 := by simpa [Instr.wellFormed] using h
    have hbyte : (BitVec.ofNat 8 len).toNat = len := toNat_byteOfNat (by omega)
    have hread := decode_encodeHostop 0x01#8 0x00#8 (by decide) (hbyte.trans_lt hlen) hdata rest
    rwa [hbyte] at hread
  | take arg | setf arg | clrf arg | wra arg | clrd arg =>
    exact decode_encodeHostop_noData (by decide) arg rest
  | hnop | hostopReserved7 => exact decode_encodeHostop_noData (by decide) 0x00#8 rest
  | clkStep l | playerStep l | txOverlay l =>
    exact decode_operandEvent (fun _ => rfl) (levelOfByte_toByte l) rest
  | asmBit b | rxBit b | rbBit b =>
    exact decode_operandEvent (fun _ => rfl) (boolOfByte_byteOfBool b) rest
  | hdrDecode src => exact decode_operandEvent (fun _ => rfl) (hdrSourceOfByte_toByte src) rest
  | falling d => exact decode_fallingWord (of_decide_eq_true h) rest
  | parFold bytes => exact decode_parFoldWord (of_decide_eq_true h) rest
  | parCheck f | rxReply f => cases f <;> rfl
  | rxInject f =>
    cases f with
    | arm => rfl
    | tick l =>
      rw [encode, decode_encodeEvent]
      exact decodeOperand_of_read (levelOfByte_toByte l) (fun l => .rxInject (.tick l)) rest
  | asmStart | asmAbandon | asmComplete | parAppend | hdrEncode | rxSync | rxStart | rxDone | rxResync
  | rxTimeout | txStart | txPreamble | txHdra | txFold | txFlags | txDequeue | txPayload | txParity
  | txEnd | rbEnter | rbDone | rbAbort | rbTimeout | chunkNext => exact decode_encodeEvent _ [] rest

/-! ### What the decoder answers -/

/-- What is answered, if anything, is a well-formed operation. -/
def AnswersWellFormed : Parsed → Prop
  | .ok (i, _) => i.wellFormed = true
  | .error _ => True

@[simp] theorem answersWellFormed_ok (i : Instr) (rest : List Byte) :
    AnswersWellFormed (.ok (i, rest)) ↔ i.wellFormed = true := Iff.rfl

@[simp] theorem answersWellFormed_error (e : DecodeError) : AnswersWellFormed (.error e) := trivial

theorem hostopRow_wellFormed (op : BitVec 3) (arg : Byte) {len : Nat} {data : List Byte}
    (hlen : len < 16) (hdata : data.length = 10) : (hostopRow op arg len data).wellFormed = true := by
  unfold hostopRow
  split
  case h_2 => simp [Instr.wellFormed, hlen, hdata]
  all_goals rfl

theorem cmdidRow_wellFormed {id : Byte} {leg : Leg} {data : List Byte} {i : Instr}
    (hdata : data.length = 9) (h : cmdidRow id leg data = some i) : i.wellFormed = true := by
  unfold cmdidRow at h
  split at h
  all_goals cases h
  all_goals exact decide_eq_true hdata

theorem hflagRow_wellFormed {mask : Byte} {f : FlagForm} {i : Instr} (h : hflagRow mask f = some i) :
    i.wellFormed = true := by
  unfold hflagRow at h
  split at h <;> cases h <;> rfl

theorem rflagRow_wellFormed {mask : Byte} {f : FlagForm} {i : Instr} (h : rflagRow mask f = some i) :
    i.wellFormed = true := by
  unfold rflagRow at h
  split at h <;> cases h <;> rfl

theorem decodeHostop_answersWellFormed (code : Byte) (bytes : List Byte) :
    AnswersWellFormed (decodeHostop code bytes) := by
  unfold decodeHostop
  split
  · split
    · trivial
    · next hdata =>
      split_ifs with hcode hlen
      · trivial
      · trivial
      · exact hostopRow_wellFormed _ _ (by omega) (length_of_takeBytes hdata)
  · trivial

theorem decodeCmdid_answersWellFormed (code : Byte) (bytes : List Byte) :
    AnswersWellFormed (decodeCmdid code bytes) := by
  unfold decodeCmdid
  split
  · split
    · trivial
    · trivial
    · next hdata =>
      split
      · next hrow => exact cmdidRow_wellFormed (length_of_takeBytes hdata) hrow
      · trivial
  · trivial

theorem decodeFlag_answersWellFormed (row : Byte → FlagForm → Option Instr)
    (hrows : ∀ mask f i, row mask f = some i → i.wellFormed = true) (code : Byte)
    (bytes : List Byte) : AnswersWellFormed (decodeFlag row code bytes) := by
  unfold decodeFlag
  split
  · split
    · trivial
    · split
      · next hrow => exact hrows _ _ _ hrow
      · trivial
  · trivial

/-- The symbol decoder tests the operation it has read. -/
theorem decodePulse_answersWellFormed (code : Byte) (bytes : List Byte) :
    AnswersWellFormed (decodePulse code bytes) := by
  unfold decodePulse
  split
  · trivial
  · split
    · trivial
    · split_ifs with hi
      · exact hi
      · trivial

theorem decodeFrame_answersWellFormed (code : Byte) (bytes : List Byte) :
    AnswersWellFormed (decodeFrame code bytes) := by
  unfold decodeFrame
  split
  · split
    · rfl
    · rfl
    · split
      · next hp => exact decide_eq_true (length_of_takeBytes hp)
      · trivial
    · rfl
    · split
      · next hp => exact decide_eq_true (length_of_takeBytes hp)
      · trivial
    · rfl
    · split_ifs <;> trivial
  · trivial

theorem decodeOperand_answersWellFormed {α : Type} {make : α → Instr}
    (hmake : ∀ a, (make a).wellFormed = true) (read : Byte → Option α) (bytes : List Byte) :
    AnswersWellFormed (decodeOperand read make bytes) := by
  unfold decodeOperand
  split
  · split
    · exact hmake _
    · trivial
  · trivial

/-- Most events have no operand. Nine have one byte, and three an operand of their own kind: a 16-bit number
(`FALLING`), a counted list (`PAR.FOLD`) and a form (`RX.INJECT`). -/
theorem decodeEvent_answersWellFormed (code : Byte) (bytes : List Byte) :
    AnswersWellFormed (decodeEvent code bytes) := by
  unfold decodeEvent
  split
  -- `FALLING`
  case h_2 =>
    split
    · exact decide_eq_true (join16_lt _ _)
    · trivial
  -- `PAR.FOLD`
  case h_7 =>
    split
    · next n _ =>
      split
      · next hbytes =>
        exact decide_eq_true ((length_of_takeBytes hbytes).trans_lt n.isLt)
      · trivial
    · trivial
  -- `RX.INJECT`
  case h_19 =>
    split
    · split
      · rfl
      · exact decodeOperand_answersWellFormed (fun _ => rfl) _ _
      · trivial
    · trivial
  -- a level, a bit, a header source or a form in one byte
  case h_1 | h_4 | h_8 | h_10 | h_11 | h_15 | h_20 | h_24 | h_32 =>
    exact decodeOperand_answersWellFormed (fun _ => rfl) _ _
  all_goals trivial

theorem decodeIn_answersWellFormed (format : WordFormat) (code : Byte) (bytes : List Byte) :
    AnswersWellFormed (decodeIn format code bytes) := by
  cases format with
  | bare => trivial
  | hostop => exact decodeHostop_answersWellFormed code bytes
  | cmdid => exact decodeCmdid_answersWellFormed code bytes
  | hflag => exact decodeFlag_answersWellFormed hflagRow (fun _ _ _ => hflagRow_wellFormed) code bytes
  | rflag => exact decodeFlag_answersWellFormed rflagRow (fun _ _ _ => rflagRow_wellFormed) code bytes
  | pulse => exact decodePulse_answersWellFormed code bytes
  | frame => exact decodeFrame_answersWellFormed code bytes
  | event => exact decodeEvent_answersWellFormed code bytes

theorem decode_answersWellFormed (word : List Byte) : AnswersWellFormed (decode word) := by
  unfold decode
  split
  · split
    · trivial
    · split
      · trivial
      · exact decodeIn_answersWellFormed _ _ _
    · exact decodeIn_answersWellFormed _ _ _
  · trivial

/-- Settles O10, format by format: each decoder builds an operation only from operands it has read off their
fields, and the symbol decoder tests it. -/
theorem decodedIsWellFormed : Obligations.DecodedIsWellFormed := by
  intro word rest i h
  have hanswer := decode_answersWellFormed word
  rwa [h, answersWellFormed_ok] at hanswer

/-! ### The port and placed requests -/

theorem fetchWord_port {inp : TickInput} {p : HostPort} (h : inp.host = .port p) :
    fetchWord inp = if p.valid then some p.word else none := by
  rw [fetchWord, h]

theorem nextInput_withInput (inp : TickInput) (s : State) : nextInput (withInput inp s) = inp := rfl

/-- Settles O11: the word of the port's signals is the row that `cmd_op` selects, and a placed request
stands in front of the listed ticks. -/
theorem portSignalsSelectOperation : Obligations.PortSignalsSelectOperation := by
  refine ⟨fun p => ?_, fun _ _ => fetchWord_port, fun s nbits w => ⟨?_, rfl⟩⟩
  · rw [decode_portWord]
    refine ⟨?_, ?_, ?_, ?_, ?_, ?_, ?_, ?_⟩ <;> (intro hop; rw [hop]; rfl)
  · rw [State.withFetchWord, nextInput_withInput]
    rfl

/-! ### Words written out -/

/-- Settles O12: closed words, decoded by the model. -/
theorem wordsWrittenOut : Obligations.WordsWrittenOut := by
  refine ⟨?hnop, ?take, ?setf, ?hostReady, ?cmdTrack, ?cmdText, ?hflags, ?rflags⟩
  all_goals decide

end Sys2Proof.Machine
end

section
/-! PROOFS. The family 40_pulse_decoder.md: the classification of a LOW time (R121 to R125), the PulseClock
(R120), and the symbols and edges that no state consumes (R126). -/

namespace Sys2Proof.Machine

open Sys2Proof

/-! ### The classification (40_pulse_decoder.md R121 to R125) -/

section
variable {cfg : Config} {d : Nat}

theorem classify_of_inResetWindow (h : cfg.resetLowMin ≤ d ∧ d ≤ cfg.resetLowMax) :
    classify cfg d = .reset := if_pos h

theorem classify_of_belowThreshold (h : ¬ (cfg.resetLowMin ≤ d ∧ d ≤ cfg.resetLowMax))
    (hd : d < cfg.pulseOnThreshold) : classify cfg d = .one := by
  rw [classify, if_neg h, if_pos hd]

theorem classify_of_atLeastThreshold (h : ¬ (cfg.resetLowMin ≤ d ∧ d ≤ cfg.resetLowMax))
    (hd : ¬ d < cfg.pulseOnThreshold) : classify cfg d = .zero := by
  rw [classify, if_neg h, if_neg hd]

theorem symbolInstr_of_reset (h : classify cfg d = .reset) :
    symbolInstr cfg d = .reset (.decoded d) := by rw [symbolInstr, h]

theorem symbolInstr_of_one (h : classify cfg d = .one) :
    symbolInstr cfg d = .one (.decoded d) := by rw [symbolInstr, h]

theorem symbolInstr_of_zero (h : classify cfg d = .zero) :
    symbolInstr cfg d = .zero (.decoded d) := by rw [symbolInstr, h]

end

/-- Settles O13, one rule for each outcome of the two tests, and the operation by the symbol. -/
theorem everyLowTimeIsOneSymbol : Obligations.EveryLowTimeIsOneSymbol := by
  intro cfg d
  refine ⟨fun hwindow => ?_, fun hwindow hbelow => ?_, fun hwindow hnotBelow => ?_⟩
  · have hreset := classify_of_inResetWindow hwindow
    exact ⟨hreset, symbolInstr_of_reset hreset⟩
  · have hone := classify_of_belowThreshold hwindow hbelow
    exact ⟨hone, symbolInstr_of_one hone⟩
  · have hzero := classify_of_atLeastThreshold hwindow hnotBelow
    exact ⟨hzero, symbolInstr_of_zero hzero⟩

/-! ### The PulseClock (40_pulse_decoder.md R120) -/

theorem exec_clkStep (line : Level) (s : State) :
    exec (.clkStep line) s = .next (clockStep line s) := rfl

theorem clockStep_held (s : State) :
    clockStep s.prevLevel s =
      { s with tEdge := min (s.tEdge + 1) s.cfg.ctrMax, ephem := .edge .none } := if_pos rfl

theorem clockStep_rise {s : State} (h : s.prevLevel = .low) :
    clockStep .high s =
      { s with prevLevel := .high, tEdge := 1, ephem := .edge (.rising s.tEdge) } := by
  rcases clockStep_cases .high s with ⟨hheld, -⟩ | ⟨-, -, hrise⟩ | ⟨hfall, -⟩
  · rw [h] at hheld
    cases hheld
  · exact hrise
  · cases hfall

theorem clockStep_fall {s : State} (h : s.prevLevel = .high) :
    clockStep .low s =
      { s with prevLevel := .low, tEdge := 1, ephem := .edge (.falling s.tEdge) } := by
  rcases clockStep_cases .low s with ⟨hheld, -⟩ | ⟨hrise, -⟩ | ⟨-, -, hfall⟩
  · rw [h] at hheld
    cases hheld
  · cases hrise
  · exact hfall

/-- Settles O17, from the three cases of the PulseClock: the level is held, it rises, it falls. -/
theorem pulseClockStep : Obligations.PulseClockStep := by
  intro s line
  refine ⟨?held, ?rise, ?fall⟩
  case held =>
    rintro rfl
    rw [exec_clkStep, clockStep_held]
  case rise =>
    rintro rfl hlow
    rw [exec_clkStep, clockStep_rise hlow]
  case fall =>
    rintro rfl hhigh
    rw [exec_clkStep, clockStep_fall hhigh]

/-! ### Symbols and edges that are dropped (40_pulse_decoder.md R126, 45_link_rx.md R212, R218) -/

section
variable {s : State}

theorem not_readingBack_of_rx (h : s.pins.role = .rx) : ¬ readingBack s := by
  rintro ⟨htx, -⟩
  rw [h] at htx
  cases htx

theorem not_listening_of_tx (h : s.pins.role = .tx) : ¬ listening s := by
  rintro ⟨hrx, -⟩
  rw [h] at hrx
  cases hrx

theorem consumeBit_dropped (hgather : ¬ (listening s ∧ s.linkState = .gatheringPacket))
    (hread : ¬ readingBack s) (b : Bool) : consumeBit b s = s := by
  rw [consumeBit, if_neg hgather, if_neg hread]

theorem consumeReset_dropped (hlisten : ¬ listening s) (hread : ¬ readingBack s) :
    consumeReset s = s := by
  rw [consumeReset, if_neg hlisten, if_neg hread]

theorem consumeFalling_dropped (h : ¬ (listening s ∧ s.linkState = .resetDetected)) :
    consumeFalling s = s := if_neg h

/-- Whether or not `d` is the LOW time of a link reset: a reset that its consumer drops changes nothing. -/
theorem exec_reset_dropped (h : consumeReset s = s) (d : Nat) :
    exec (.reset (.decoded d)) s = .next s :=
  congrArg Host.Outcome.next (by rw [h, ite_self])

theorem exec_one_dropped (h : consumeBit true s = s) (d : Nat) :
    exec (.one (.decoded d)) s = .next s :=
  congrArg Host.Outcome.next (by rw [h, ite_self])

theorem exec_zero_dropped (h : consumeBit false s = s) (d : Nat) :
    exec (.zero (.decoded d)) s = .next s :=
  congrArg Host.Outcome.next (by rw [h, ite_self])

theorem exec_falling_dropped (h : ¬ (listening s ∧ s.linkState = .resetDetected)) (d : Nat) :
    exec (.falling d) s = .next s := congrArg Host.Outcome.next (consumeFalling_dropped h)

/-- Where no bit is gathered and no `RD` waits for its end, bits and falling edges are dropped. -/
theorem exec_bitOrFalling_dropped (hgather : ¬ (listening s ∧ s.linkState = .gatheringPacket))
    (hread : ¬ readingBack s) (hrd : ¬ (listening s ∧ s.linkState = .resetDetected)) (d : Nat) :
    ∀ i ∈ [Instr.one (.decoded d), .zero (.decoded d), .falling d], exec i s = .next s := by
  rw [List.forall_mem_cons, List.forall_mem_cons, List.forall_mem_singleton]
  exact ⟨exec_one_dropped (consumeBit_dropped hgather hread true) d,
    exec_zero_dropped (consumeBit_dropped hgather hread false) d, exec_falling_dropped hrd d⟩

/-- Where neither role's consumer runs, every symbol and edge is dropped (40_pulse_decoder.md R126). -/
theorem exec_symbolOrFalling_dropped (hlisten : ¬ listening s) (hread : ¬ readingBack s) (d : Nat) :
    ∀ i ∈ [Instr.reset (.decoded d), .one (.decoded d), .zero (.decoded d), .falling d],
      exec i s = .next s := by
  rw [List.forall_mem_cons]
  exact ⟨exec_reset_dropped (consumeReset_dropped hlisten hread) d,
    exec_bitOrFalling_dropped (fun h => hlisten h.1) hread (fun h => hlisten h.1) d⟩

theorem no_consumer (h : (s.pins.role = .rx ∧ s.txState ≠ .idle) ∨
    (s.pins.role = .tx ∧ s.txState ≠ .readBack)) : ¬ listening s ∧ ¬ readingBack s := by
  rcases h with ⟨hrx, hbusy⟩ | ⟨htx, hnotReading⟩
  · exact ⟨fun hlisten => hbusy hlisten.2, not_readingBack_of_rx hrx⟩
  · exact ⟨not_listening_of_tx htx, fun hread => hnotReading hread.2⟩

theorem not_listeningIn {l k : LinkState} (h : s.linkState = l) (hne : l ≠ k) :
    ¬ (listening s ∧ s.linkState = k) := fun ⟨_, hk⟩ => hne (h.symm.trans hk)

end

/-- Settles O20: without a consumer everything is dropped; a receiver in `AS` gathers no bit, and a falling
edge is consumed only by a receiver in `RD`. -/
theorem unconsumedSymbolsDropped : Obligations.UnconsumedSymbolsDropped := by
  intro s d
  refine ⟨?noConsumer, ?awaitingSync, ?gathering, ?transmitter⟩
  case noConsumer =>
    intro h
    obtain ⟨hlisten, hread⟩ := no_consumer h
    exact exec_symbolOrFalling_dropped hlisten hread d
  case awaitingSync =>
    intro hrx has
    exact exec_bitOrFalling_dropped (not_listeningIn has (by decide)) (not_readingBack_of_rx hrx)
      (not_listeningIn has (by decide)) d
  case gathering =>
    intro _ hgp
    exact exec_falling_dropped (not_listeningIn hgp (by decide)) d
  case transmitter =>
    intro htx
    exact exec_falling_dropped (fun h => not_listening_of_tx htx h.1) d

end Sys2Proof.Machine
end

section
/-! PROOFS. The family 41_packet_assembler.md: the start and the end of a frame (R140, R142), a bit of it
(R141), and the completion of a packet and of a read-back burst (R143, R144; 46_link_tx.md R246). -/

namespace Sys2Proof.Machine

open Sys2Proof

/-! ### Start and abandonment of a frame (41_packet_assembler.md R140, R142) -/

theorem exec_asmStart (s : State) : exec .asmStart s = .next (startFrame s) := rfl

theorem exec_asmAbandon (s : State) : exec .asmAbandon s = .next (abandonFrame s) := rfl

/-- Settles O22: both operations set the three frame counters and write nothing else. -/
theorem frameStartAndAbandon : Obligations.FrameStartAndAbandon := by
  intro s
  rw [List.forall_mem_cons, List.forall_mem_singleton]
  exact ⟨exec_asmStart s, exec_asmAbandon s⟩

/-! ### A bit of a frame (41_packet_assembler.md R141) -/

/-- The receive role is in `GP` and its own burst is not playing (45_link_rx.md R208, R218). -/
def receivingFrame (s : State) : Prop :=
  s.pins.role = .rx ∧ s.txState = .idle ∧ s.linkState = .gatheringPacket

theorem receivingFrame_iff (s : State) :
    receivingFrame s ↔ listening s ∧ s.linkState = .gatheringPacket := and_assoc.symm

/-- `i` appends the bit `b` in `s`: `ASM.BIT` anywhere, `RX.BIT` and `RB.BIT` where their role gathers a
frame, or there the symbol of a LOW time of `d` ticks (45_link_rx.md R208, 46_link_tx.md R244). -/
def AppendsBit (s : State) (b : Bool) (d : Nat) (i : Instr) : Prop :=
  i = .asmBit b ∨ (i = .rxBit b ∧ receivingFrame s) ∨ (i = .rbBit b ∧ readingBack s) ∨
    ((receivingFrame s ∨ readingBack s) ∧
      ((b = true ∧ i = .one (.decoded d) ∧ classify s.cfg d = .one) ∨
       (b = false ∧ i = .zero (.decoded d) ∧ classify s.cfg d = .zero)))

section
variable {s : State}

theorem exec_asmBit (b : Bool) (s : State) : exec (.asmBit b) s = .next (assembleBit b s) := rfl

theorem exec_rxBit (h : listening s ∧ s.linkState = .gatheringPacket) (b : Bool) :
    exec (.rxBit b) s = .next (assembleBit b s) := congrArg Host.Outcome.next (if_pos h)

theorem exec_rbBit (h : readingBack s) (b : Bool) : exec (.rbBit b) s = .next (assembleBit b s) :=
  congrArg Host.Outcome.next (if_pos h)

theorem exec_one_decoded {d : Nat} (h : classify s.cfg d = .one) :
    exec (.one (.decoded d)) s = .next (consumeBit true s) := congrArg Host.Outcome.next (if_pos h)

theorem exec_zero_decoded {d : Nat} (h : classify s.cfg d = .zero) :
    exec (.zero (.decoded d)) s = .next (consumeBit false s) := congrArg Host.Outcome.next (if_pos h)

/-- Either role's gatherer takes the bit of a symbol (40_pulse_decoder.md R126). -/
theorem consumeBit_gathered
    (h : (listening s ∧ s.linkState = .gatheringPacket) ∨ readingBack s) (b : Bool) :
    consumeBit b s = assembleBit b s := by
  rcases consumeBit_cases b s with ⟨-, hc⟩ | ⟨hgather, hread, -⟩
  · exact hc
  · exact absurd h (not_or.2 ⟨hgather, hread⟩)

/-- Every operation that appends a bit is `ASM.BIT`. -/
theorem AppendsBit.exec_eq {b : Bool} {d : Nat} {i : Instr} (h : AppendsBit s b d i) :
    exec i s = .next (assembleBit b s) := by
  rcases h with rfl | ⟨rfl, hgather⟩ | ⟨rfl, hread⟩ | ⟨hgathers, hsymbol⟩
  · exact exec_asmBit b s
  · exact exec_rxBit ((receivingFrame_iff s).1 hgather) b
  · exact exec_rbBit hread b
  · have hconsume : consumeBit b s = assembleBit b s :=
      consumeBit_gathered (hgathers.imp_left (receivingFrame_iff s).1) b
    rw [← hconsume]
    rcases hsymbol with ⟨rfl, rfl, hone⟩ | ⟨rfl, rfl, hzero⟩
    · exact exec_one_decoded hone
    · exact exec_zero_decoded hzero

/-- One of the first seven bits of a byte stays under assembly. -/
theorem appendBit_of_lt (h : s.bitIdx < 7) (b : Bool) :
    appendBit b s = { s with
      curByte := s.curByte ||| ((if b then 1#8 else 0#8) <<< s.bitIdx), bitIdx := s.bitIdx + 1 } :=
  if_pos h

/-- The eighth bit stores the byte. -/
theorem appendBit_eighth (h : s.bitIdx = 7) (b : Bool) :
    appendBit b s = { s with
      pkt := putByte s.pkt s.byteIdx (s.curByte ||| ((if b then 1#8 else 0#8) <<< 7)),
      byteIdx := s.byteIdx + 1, bitIdx := 0, curByte := 0x00#8 } := by
  rw [appendBit, if_neg (by omega), withBit, h]

/-- A bit after which the frame is still short is appended and nothing more. -/
theorem assembleBit_of_short {b : Bool} (hopen : s.byteIdx < frameLen s)
    (hshort : (appendBit b s).byteIdx ≠ frameLen (appendBit b s)) :
    assembleBit b s = appendBit b s := by
  rw [assembleBit_of_lt hopen, completeIfFull_of_ne hshort]

end

/-- Settles O23: every such operation is `ASM.BIT`, and neither a bit inside a byte nor the last bit of a
byte that is not the frame's last fills the frame. -/
theorem bitAppended : Obligations.BitAppended := by
  intro s b d i hi
  rw [AppendsBit.exec_eq (s := s) (b := b) (d := d) hi]
  refine ⟨fun hbit hopen => ?inByte, fun hbit hshort => ?endOfByte⟩
  case inByte =>
    have happend := appendBit_of_lt hbit b
    rw [assembleBit_of_short hopen (by rw [happend]; exact Nat.ne_of_lt hopen), happend]
  case endOfByte =>
    have happend := appendBit_eighth hbit b
    rw [assembleBit_of_short (by omega) (by rw [happend]; exact Nat.ne_of_lt hshort), happend]

/-! ### The full frame (41_packet_assembler.md R143) -/

section
variable {s : State}

theorem frameLen_rx (h : s.pins.role = .rx) : frameLen s = s.cfg.pktLen := by rw [frameLen, h]

theorem frameLen_tx (h : s.pins.role = .tx) : frameLen s = s.cfg.burstLen := by rw [frameLen, h]

/-- The full frame of a read-back completes as a burst (46_link_tx.md R246). -/
theorem completeIfFull_of_burst (hread : readingBack s) (h : s.byteIdx = frameLen s) :
    completeIfFull s = finishBurst s := by
  obtain ⟨htx, hx⟩ := hread
  rcases completeIfFull_cases s with ⟨hrx, -⟩ | ⟨-, -, -, hc⟩ | ⟨hnone, -⟩
  · rw [htx] at hrx
    cases hrx
  · exact hc
  · exact absurd hx (hnone h).2

theorem exec_asmComplete (s : State) : exec .asmComplete s = .next (completeIfFull s) := rfl

theorem exec_packetReceived (h : packetGathered s) :
    exec (.packet .received) s = .next (finishPacket s) := congrArg Host.Outcome.next (if_pos h)

theorem exec_hostReadySeen (h : packetGathered s) :
    exec (.hostReady .seen) s = .next (finishPacket s) := congrArg Host.Outcome.next (if_pos h)

theorem exec_rxDone (h : listening s ∧ s.linkState = .gatheringPacket)
    (hfull : s.byteIdx = s.cfg.pktLen) : exec .rxDone s = .next (finishPacket s) :=
  congrArg Host.Outcome.next (if_pos ⟨h, hfull⟩)

theorem exec_burstReceived (h : readingBack s) (hfull : s.byteIdx = s.cfg.burstLen) :
    exec (.burst .received) s = .next (finishBurst s) :=
  congrArg Host.Outcome.next (if_pos ⟨h, hfull⟩)

theorem exec_rbDone (h : readingBack s) (hfull : s.byteIdx = s.cfg.burstLen) :
    exec .rbDone s = .next (finishBurst s) := congrArg Host.Outcome.next (if_pos ⟨h, hfull⟩)

theorem exec_asmComplete_packet (h : packetGathered s) :
    exec .asmComplete s = .next (finishPacket s) := by
  obtain ⟨hrx, hfull⟩ := h
  rw [exec_asmComplete, completeIfFull_of_packet hrx (hfull.trans (frameLen_rx hrx).symm)]

theorem exec_asmComplete_burst (h : readingBack s) (hfull : s.byteIdx = s.cfg.burstLen) :
    exec .asmComplete s = .next (finishBurst s) := by
  rw [exec_asmComplete, completeIfFull_of_burst h (hfull.trans (frameLen_tx h.1).symm)]

/-- The completion that follows a bit (41_packet_assembler.md R141) is that of a received packet. -/
theorem completeIfFull_eq_packetReceived (hrx : s.pins.role = .rx) (h : s.byteIdx = frameLen s) :
    .next (completeIfFull s) = exec (.packet .received) s := by
  rw [completeIfFull_of_packet hrx h, exec_packetReceived ⟨hrx, h.trans (frameLen_rx hrx)⟩]

/-- In the read-back it is that of a received burst (46_link_tx.md R246). -/
theorem completeIfFull_eq_burstReceived (hread : readingBack s) (h : s.byteIdx = frameLen s) :
    .next (completeIfFull s) = exec (.burst .received) s := by
  rw [completeIfFull_of_burst hread h, exec_burstReceived hread (h.trans (frameLen_tx hread.1))]

end

/-- Settles O24: every such operation is `ASM.BIT`, which stores the byte as the eighth bit and then finds the
frame full. -/
theorem lastBitCompletesFrame : Obligations.LastBitCompletesFrame := by
  intro s b d i hbit hlast hi
  rw [AppendsBit.exec_eq (s := s) (b := b) (d := d) hi, assembleBit_of_lt (by omega),
    appendBit_eighth hbit]
  exact ⟨fun hrx => completeIfFull_eq_packetReceived hrx hlast,
    fun htx hx => completeIfFull_eq_burstReceived ⟨htx, hx⟩ hlast⟩

/-! ### The outcomes of a packet (41_packet_assembler.md R144, 45_link_rx.md R216) -/

section
variable {s : State}

theorem toRestart_rx (h : s.pins.role = .rx) : toRestart s = { s with linkState := .awaitingSync } := by
  rw [toRestart, h]

theorem toRestart_tx (h : s.pins.role = .tx) :
    toRestart s = { s with txState := .idle, idleCtr := 0 } := by
  rw [toRestart, h]

theorem packetParityOk_iff (s : State) :
    packetParityOk s = true ↔ byteAt s.pkt 12 = xorFold (packetPayload s) := beq_iff_eq

theorem burstParityOk_iff (s : State) :
    burstParityOk s = true ↔ byteAt s.pkt 10 = xorFold (burstPayload s) := beq_iff_eq

theorem finishPacket_of_notReady (hrx : s.pins.role = .rx) (hgate : gateOpen s = false) :
    finishPacket s = { s with byteIdx := 0, linkState := .awaitingSync } := by
  rw [finishPacket, if_pos hgate, raise_peerNotReady, toRestart_rx (by exact hrx)]

theorem finishPacket_of_badParity (hrx : s.pins.role = .rx) (hgate : gateOpen s = true)
    (hparity : ¬ packetParityOk s = true) :
    finishPacket s = { s with
      diag := s.diag ||| 0x01#8, byteIdx := 0, linkState := .awaitingSync } := by
  rw [finishPacket, if_neg (by simp [hgate]), if_pos (Bool.eq_false_of_not_eq_true hparity),
    raise_parityMismatch, toRestart_rx (by exact hrx), parityErr]

theorem finishPacket_of_parityOk (hrx : s.pins.role = .rx) (hgate : gateOpen s = true)
    (hparity : packetParityOk s = true) :
    finishPacket s = { replyIfGranted (deliverPacket s) with
      byteIdx := 0, linkState := .awaitingSync } := by
  have hrole : (replyIfGranted (deliverPacket s)).pins.role = .rx := by
    rcases replyIfGranted_cases (deliverPacket s) with ⟨-, hreply⟩ | ⟨-, hreply⟩ <;> rw [hreply] <;>
      exact hrx
  rw [finishPacket, if_neg (by simp [hgate]), if_neg (by simp [hparity]), toRestart_rx (by exact hrole)]

/-- The reply depends on nothing that delivery writes. -/
theorem replyGranted_deliverPacket (s : State) :
    replyGranted (deliverPacket s) ↔ replyGranted s := Iff.rfl

theorem replyIfGranted_deliverPacket_of_not (h : ¬ replyGranted s) :
    replyIfGranted (deliverPacket s) = deliverPacket s :=
  if_neg (mt (replyGranted_deliverPacket s).1 h)

theorem replyIfGranted_deliverPacket (h : replyGranted s) :
    replyIfGranted (deliverPacket s) = startReply (deliverPacket s) :=
  if_pos ((replyGranted_deliverPacket s).2 h)

theorem not_replyGranted (h : s.pins.replyEn = false ∨ busGranted s = false ∨ s.qLen = 0) :
    ¬ replyGranted s := by
  rintro ⟨hen, hbus, hq⟩
  rcases h with h | h | h
  · simp [h] at hen
  · simp [h] at hbus
  · omega

/-- The reply burst begins with the gap before it (43_pulse_encoder.md R172). -/
theorem startReply_eq (s : State) :
    startReply s = { s with
      txbuf := queuedPayload s, qLen := 0, segs := waveBurst s.cfg (queuedPayload s).toList,
      segRem := s.cfg.replyGapUs, txState := .play } := rfl

/-- Each of the operations that complete a packet. -/
theorem exec_packetCompletion {i : Instr} (h : packetGathered s)
    (hi : i = .asmComplete ∨ i = .packet .received ∨ i = .hostReady .seen ∨
      (i = .rxDone ∧ s.txState = .idle ∧ s.linkState = .gatheringPacket)) :
    exec i s = .next (finishPacket s) := by
  rcases hi with rfl | rfl | rfl | ⟨rfl, hidle, hgp⟩
  · exact exec_asmComplete_packet h
  · exact exec_packetReceived h
  · exact exec_hostReadySeen h
  · exact exec_rxDone ⟨⟨h.1, hidle⟩, hgp⟩ h.2

end

/-- Settles O26: each of the operations is the completion of a packet, whose outcome the gate, the parity
and the grant of a reply select in this order. -/
theorem packetCompletion : Obligations.PacketCompletion := by
  intro s i hrx hfull hi
  rw [exec_packetCompletion ⟨hrx, hfull⟩ hi]
  refine ⟨fun hgate => ?notReady, fun hgate hbad => ?badParity,
    fun hgate hok => ⟨fun hno => ?noReply, fun hen hbus hq => ?reply⟩⟩
  case notReady => rw [finishPacket_of_notReady hrx hgate]
  case badParity =>
    rw [finishPacket_of_badParity hrx hgate (mt (packetParityOk_iff s).1 hbad)]
  case noReply =>
    rw [finishPacket_of_parityOk hrx hgate ((packetParityOk_iff s).2 hok),
      replyIfGranted_deliverPacket_of_not (not_replyGranted hno), deliverPacket, packetPayload]
  case reply =>
    rw [finishPacket_of_parityOk hrx hgate ((packetParityOk_iff s).2 hok),
      replyIfGranted_deliverPacket ⟨hen, hbus, hq⟩, startReply_eq]
    rfl

/-! ### The outcomes of a burst (46_link_tx.md R246) -/

section
variable {s : State}

theorem finishBurst_of_badParity (htx : s.pins.role = .tx) (hparity : ¬ burstParityOk s = true) :
    finishBurst s = { s with
      diag := s.diag ||| 0x01#8, byteIdx := 0, txState := .idle, idleCtr := 0 } := by
  rw [finishBurst, if_pos (Bool.eq_false_of_not_eq_true hparity), raise_parityMismatch,
    toRestart_tx (by exact htx), parityErr]

theorem finishBurst_of_parityOk (htx : s.pins.role = .tx) (hparity : burstParityOk s = true) :
    finishBurst s = { s with
      rxPayload := bufOfList 10 (burstPayload s), rxValid := true, byteIdx := 0, txState := .idle,
      idleCtr := 0 } := by
  rw [finishBurst, if_neg (by simp [hparity]), toRestart_tx (by exact htx), deliverBurst]

/-- Each of the operations that complete a read-back burst. -/
theorem exec_burstCompletion (h : readingBack s) (hfull : s.byteIdx = s.cfg.burstLen) :
    ∀ i ∈ [Instr.asmComplete, .burst .received, .rbDone], exec i s = .next (finishBurst s) := by
  rw [List.forall_mem_cons, List.forall_mem_cons, List.forall_mem_singleton]
  exact ⟨exec_asmComplete_burst h hfull, exec_burstReceived h hfull, exec_rbDone h hfull⟩

end

/-- Settles O27: each of the operations is the completion of a burst, whose outcome the parity alone
selects. -/
theorem burstCompletion : Obligations.BurstCompletion := by
  intro s htx hx hfull i hi
  rw [exec_burstCompletion ⟨htx, hx⟩ hfull i hi]
  refine ⟨fun hbad => ?badParity, fun hok => ?parityOk⟩
  case badParity => rw [finishBurst_of_badParity htx (mt (burstParityOk_iff s).1 hbad)]
  case parityOk =>
    rw [finishBurst_of_parityOk htx ((burstParityOk_iff s).2 hok), burstPayload]

end Sys2Proof.Machine
end

section
/-! PROOFS. The family 42_parity.md: the exclusive-or fold (R155), its operations (R155 to R157), and the
round trip of a payload through its waveform (R158). -/

namespace Sys2Proof.Machine

open Sys2Proof

/-! ### The fold (42_parity.md R155) -/

@[simp] theorem xorFold_nil : xorFold [] = 0x00#8 := rfl

@[simp] theorem xorFold_cons (b : Byte) (rest : List Byte) :
    xorFold (b :: rest) = b ^^^ xorFold rest := rfl

/-- The fold has no carry, so two lists one after another fold each by itself. -/
theorem xorFold_append (l m : List Byte) : xorFold (l ++ m) = xorFold l ^^^ xorFold m := by
  induction l with
  | nil => rw [List.nil_append, xorFold_nil, BitVec.zero_xor]
  | cons b l ih => rw [List.cons_append, xorFold_cons, ih, xorFold_cons, BitVec.xor_assoc]

theorem xorFold_replicate_zero (n : Nat) : xorFold (List.replicate n 0x00#8) = 0x00#8 := by
  induction n with
  | zero => rfl
  | succ n ih => rw [List.replicate_succ, xorFold_cons, ih, BitVec.xor_zero]

/-- An even count of equal bytes cancels. -/
theorem xorFold_replicate_even (n : Nat) (b : Byte) : xorFold (List.replicate (n + n) b) = 0x00#8 := by
  rw [List.replicate_add, xorFold_append, BitVec.xor_self]

/-- The fold is independent of the order of the bytes. -/
theorem xorFold_of_perm {l m : List Byte} (h : l.Perm m) : xorFold l = xorFold m := by
  induction h with
  | nil => rfl
  | cons b _ ih => rw [xorFold_cons, ih, xorFold_cons]
  | swap a b rest =>
    simp only [xorFold_cons]
    ac_rfl
  | trans _ _ ihl ihm => exact ihl.trans ihm

/-- The same bits flipped in two bytes cancel. -/
theorem xorFold_flip_two (a b flip : Byte) (rest : List Byte) :
    xorFold ((a ^^^ flip) :: (b ^^^ flip) :: rest) = xorFold (a :: b :: rest) := by
  calc (a ^^^ flip) ^^^ ((b ^^^ flip) ^^^ xorFold rest)
      = (a ^^^ (b ^^^ xorFold rest)) ^^^ (flip ^^^ flip) := by ac_rfl
    _ = a ^^^ (b ^^^ xorFold rest) := by rw [BitVec.xor_self, BitVec.xor_zero]

/-- Settles O15, from the laws of the fold; the worked example is evaluated. -/
theorem xorFoldLaws : Obligations.XorFoldLaws := by
  refine ⟨xorFold_nil, xorFold_cons, xorFold_replicate_zero 10, xorFold_replicate_even 5 0xFF#8,
    fun l n => ?padded, fun _ _ => xorFold_of_perm, xorFold_flip_two, by decide⟩
  case padded => rw [xorFold_append, xorFold_replicate_zero, BitVec.xor_zero]

/-! ### The operations of the parity (42_parity.md R155 to R157) -/

theorem exec_parFold (bytes : List Byte) (s : State) :
    exec (.parFold bytes) s = .next { s with ephem := .byte (xorFold bytes) } := rfl

theorem exec_parCheck_packet (s : State) :
    exec (.parCheck .packet) s = .next { s with ephem := .verdict (packetParityOk s) } := rfl

theorem exec_parCheck_burst (s : State) :
    exec (.parCheck .burst) s = .next { s with ephem := .verdict (burstParityOk s) } := rfl

theorem exec_parAppend (s : State) :
    exec .parAppend s = .next { s with ephem := .byte (xorFold s.txbuf.toList) } := rfl

theorem packetParityOk_eq_decide (s : State) :
    packetParityOk s = decide (byteAt s.pkt 12 = xorFold ((s.pkt.toList.drop 2).take 10)) :=
  Bool.eq_iff_iff.2 ((packetParityOk_iff s).trans decide_eq_true_iff.symm)

theorem burstParityOk_eq_decide (s : State) :
    burstParityOk s = decide (byteAt s.pkt 10 = xorFold (s.pkt.toList.take 10)) :=
  Bool.eq_iff_iff.2 ((burstParityOk_iff s).trans decide_eq_true_iff.symm)

/-- Settles O16: each operation hands its value on, and the verdict is the comparison of the trailer with
the fold of the payload. -/
theorem parityOperations : Obligations.ParityOperations := by
  intro s bytes
  rw [← packetParityOk_eq_decide, ← burstParityOk_eq_decide]
  exact ⟨exec_parFold bytes s, exec_parCheck_packet s, exec_parCheck_burst s, exec_parAppend s⟩

/-! ### A byte from its eight bits (20_memory.md R62) -/

/-- Placing bit `n` of the byte above its first `n` bits. -/
theorem setBitTo_lowBits (v : Byte) (n : Nat) :
    setBitTo (lowBits v n) n (bitOf v n) = lowBits v (n + 1) := by
  refine BitVec.eq_of_getLsbD_eq fun j hj => ?_
  have hread : (setBitTo (lowBits v n) n (bitOf v n)).getLsbD j =
      if j = n then bitOf v n else bitOf (lowBits v n) j := bitOf_setBitTo _ _ hj
  rw [hread, getLsbD_lowBits, bitOf, bitOf, getLsbD_lowBits]
  split
  case isTrue hjn => simp [hjn]
  case isFalse hjn =>
    have hiff : j < n + 1 ↔ j < n := by omega
    rw [decide_eq_decide.2 hiff]

theorem byteOfBits_bitOf (v : Byte) :
    byteOfBits (bitOf v 0) (bitOf v 1) (bitOf v 2) (bitOf v 3) (bitOf v 4) (bitOf v 5) (bitOf v 6)
      (bitOf v 7) = v := by
  rw [byteOfBits, ← lowBits_zero v, setBitTo_lowBits v 0, setBitTo_lowBits v 1, setBitTo_lowBits v 2,
    setBitTo_lowBits v 3, setBitTo_lowBits v 4, setBitTo_lowBits v 5, setBitTo_lowBits v 6,
    setBitTo_lowBits v 7, lowBits_eight]

/-- The symbol that carries a bit (30_encoding.md R92 (b)). -/
def bitSymbol (b : Bool) : Symbol := if b then .one else .zero

@[simp] theorem symbolBit_bitSymbol (b : Bool) : symbolBit (bitSymbol b) = b := by cases b <;> rfl

/-- The eight symbols that carry a byte, bit 0 first. -/
def byteSymbols (v : Byte) : List Symbol := (byteBits v).map bitSymbol

theorem byteSymbols_append (v : Byte) (rest : List Symbol) :
    byteSymbols v ++ rest = bitSymbol (bitOf v 0) :: bitSymbol (bitOf v 1) :: bitSymbol (bitOf v 2) ::
      bitSymbol (bitOf v 3) :: bitSymbol (bitOf v 4) :: bitSymbol (bitOf v 5) ::
      bitSymbol (bitOf v 6) :: bitSymbol (bitOf v 7) :: rest := rfl

theorem bytesOfSymbols_byteSymbols_append (v : Byte) (rest : List Symbol) :
    bytesOfSymbols (byteSymbols v ++ rest) = v :: bytesOfSymbols rest := by
  simp only [byteSymbols_append, bytesOfSymbols, symbolBit_bitSymbol, byteOfBits_bitOf]

/-- The symbols of a list of bytes read back as the bytes. -/
theorem bytesOfSymbols_flatMap_byteSymbols (l : List Byte) :
    bytesOfSymbols (l.flatMap byteSymbols) = l := by
  induction l with
  | nil => rfl
  | cons v l ih => rw [List.flatMap_cons, bytesOfSymbols_byteSymbols_append, ih]

/-! ### Segments of a waveform read back (30_encoding.md R81) -/

/-- The cell of a bit outside an overlay (43_pulse_encoder.md R166, R167). -/
def bitCell (cfg : Config) (b : Bool) : List Segment := if b then cellOne cfg else cellZero cfg

theorem cell_noOverlay (cfg : Config) (v : Byte) (i : Nat) :
    cell cfg v 0x00#8 i = bitCell cfg (bitOf v i) := by
  rw [cell, bitCell, if_neg (show ¬ bitOf 0x00#8 i = true by simp [bitOf])]

theorem waveByte_noOverlay (cfg : Config) (v : Byte) :
    waveByte cfg v 0x00#8 = (byteBits v).flatMap (bitCell cfg) ++ idleGap cfg := by
  have hbits : byteBits v = [bitOf v 0, bitOf v 1, bitOf v 2, bitOf v 3, bitOf v 4, bitOf v 5,
    bitOf v 6, bitOf v 7] := rfl
  simp only [waveByte, cell_noOverlay, hbits, List.flatMap_cons, List.flatMap_nil, List.append_nil,
    List.append_assoc]

theorem waveBytes_append (cfg : Config) (l m : List Byte) :
    waveBytes cfg (l ++ m) = waveBytes cfg l ++ waveBytes cfg m := by
  induction l with
  | nil => rfl
  | cons v l ih => rw [List.cons_append, waveBytes, ih, waveBytes, List.append_assoc]

theorem waveBytes_singleton (cfg : Config) (v : Byte) : waveBytes cfg [v] = waveByte cfg v 0x00#8 :=
  List.append_nil _

/-- A burst is its gap and then plain bytes (43_pulse_encoder.md R172). -/
theorem waveBurst_eq_waveBytes (cfg : Config) (p : List Byte) :
    waveBurst cfg p = .z cfg.replyGapUs :: waveBytes cfg (p ++ [xorFold p]) := by
  rw [waveBytes_append, waveBytes_singleton]
  rfl

/-- A packet without an overlay is its link reset and then plain bytes (43_pulse_encoder.md R171). -/
theorem wavePacket_eq_waveBytes (cfg : Config) (a f : Byte) (p : List Byte) :
    wavePacket cfg a f p 0x00#8 = waveReset cfg ++ waveBytes cfg ([a, f] ++ p ++ [xorFold p]) := by
  simp only [wavePacket, waveBytes_append, waveBytes, List.append_nil, List.append_assoc]

theorem lowPhases_d0 (low n : Nat) (w : List Segment) :
    lowPhases low (.d0 n :: w) = lowPhases (low + n) w := by rw [lowPhases]

/-- A rising edge ends a LOW time of at least one tick. -/
theorem lowPhases_d1_of_pos {low : Nat} (h : 0 < low) (n : Nat) (w : List Segment) :
    lowPhases low (.d1 n :: w) = low :: lowPhases 0 w := by
  obtain ⟨k, rfl⟩ := Nat.exists_eq_add_one_of_ne_zero (Nat.ne_of_gt h)
  rw [lowPhases]

/-- The first rising edge of a waveform is the symbol of the LOW time before it. -/
theorem waveSymbols_eq_cons {cfg : Config} {low : Nat} {wave rest : List Segment} {sym : Symbol}
    (hlow : lowPhases 0 wave = low :: lowPhases 0 rest) (hsym : classify cfg low = sym) :
    waveSymbols cfg wave = sym :: waveSymbols cfg rest := by
  rw [waveSymbols, hlow, List.map_cons, hsym, waveSymbols]

/-- A gap after a HIGH has no edge (43_pulse_encoder.md R170). -/
theorem waveSymbols_idleGap_append (cfg : Config) (w : List Segment) :
    waveSymbols cfg (idleGap cfg ++ w) = waveSymbols cfg w := by
  rw [idleGap]
  split <;> rfl

/-- The line stays HIGH in the gap before a burst (43_pulse_encoder.md R172). -/
theorem waveSymbols_z (cfg : Config) (n : Nat) (w : List Segment) :
    waveSymbols cfg (.z n :: w) = waveSymbols cfg w := rfl

/-! ### Cells read back (42_parity.md R158; 40_pulse_decoder.md R121 to R123) -/

section
variable {cfg : Config}

/-- The LOW time of a sent `ONE` is below the threshold (00_scope.md R9). -/
theorem classify_sUs (h : cfg.wellFormed) : classify cfg cfg.sUs = .one := by
  obtain ⟨⟨-, hbelow, hthreshold, hwindow, -⟩, -, -⟩ := h
  exact classify_of_belowThreshold (by omega) hbelow

/-- The LOW time of a sent `ZERO` is from the threshold up to below the reset window (00_scope.md R9). -/
theorem classify_sUs_add_lUs (h : cfg.wellFormed) : classify cfg (cfg.sUs + cfg.lUs) = .zero := by
  obtain ⟨⟨-, -, hthreshold, hwindow, -⟩, -, -⟩ := h
  exact classify_of_atLeastThreshold (by omega) (by omega)

/-- The LOW time of a sent link reset is in the reset window (00_scope.md R9). -/
theorem classify_resetTxLowUs (h : cfg.wellFormed) : classify cfg cfg.resetTxLowUs = .reset := by
  obtain ⟨⟨-, -, -, -, hmin, hmax, -⟩, -, -⟩ := h
  exact classify_of_inResetWindow ⟨hmin, hmax⟩

theorem sUs_pos (h : cfg.wellFormed) : 0 < cfg.sUs := h.1.1

theorem resetTxLowUs_pos (h : cfg.wellFormed) : 0 < cfg.resetTxLowUs := by
  obtain ⟨⟨hs, -, -, hwindow, hmin, -⟩, -, -⟩ := h
  omega

/-- A listener that has seen the line HIGH reads the cell of a bit as the bit. -/
theorem waveSymbols_bitCell_append (h : cfg.wellFormed) (b : Bool) (w : List Segment) :
    waveSymbols cfg (bitCell cfg b ++ w) = bitSymbol b :: waveSymbols cfg w := by
  have hs := sUs_pos h
  cases b with
  | true =>
    have hlow : lowPhases 0 (cellOne cfg ++ w) = cfg.sUs :: lowPhases 0 w := by
      rw [cellOne, List.cons_append, lowPhases_d0, Nat.zero_add, List.cons_append,
        lowPhases_d1_of_pos hs, List.nil_append]
    exact waveSymbols_eq_cons hlow (classify_sUs h)
  | false =>
    have hlow : lowPhases 0 (cellZero cfg ++ w) = (cfg.sUs + cfg.lUs) :: lowPhases 0 w := by
      rw [cellZero, List.cons_append, lowPhases_d0, Nat.zero_add, List.cons_append, lowPhases_d0,
        List.cons_append, lowPhases_d1_of_pos (Nat.add_pos_left hs _), List.nil_append]
    exact waveSymbols_eq_cons hlow (classify_sUs_add_lUs h)

theorem waveSymbols_waveReset_append (h : cfg.wellFormed) (w : List Segment) :
    waveSymbols cfg (waveReset cfg ++ w) = .reset :: waveSymbols cfg w := by
  have hlow : lowPhases 0 (waveReset cfg ++ w) = cfg.resetTxLowUs :: lowPhases 0 w := by
    rw [waveReset, List.cons_append, lowPhases_d0, Nat.zero_add, List.cons_append,
      lowPhases_d1_of_pos (resetTxLowUs_pos h), List.nil_append]
  exact waveSymbols_eq_cons hlow (classify_resetTxLowUs h)

theorem waveSymbols_bitCells_append (h : cfg.wellFormed) (bits : List Bool) (w : List Segment) :
    waveSymbols cfg (bits.flatMap (bitCell cfg) ++ w) = bits.map bitSymbol ++ waveSymbols cfg w := by
  induction bits with
  | nil => rfl
  | cons b bits ih =>
    rw [List.flatMap_cons, List.append_assoc, waveSymbols_bitCell_append h, ih, List.map_cons,
      List.cons_append]

theorem waveSymbols_waveByte_append (h : cfg.wellFormed) (v : Byte) (w : List Segment) :
    waveSymbols cfg (waveByte cfg v 0x00#8 ++ w) = byteSymbols v ++ waveSymbols cfg w := by
  rw [waveByte_noOverlay, List.append_assoc, waveSymbols_bitCells_append h,
    waveSymbols_idleGap_append, byteSymbols]

theorem waveSymbols_waveBytes (h : cfg.wellFormed) (l : List Byte) :
    waveSymbols cfg (waveBytes cfg l) = l.flatMap byteSymbols := by
  induction l with
  | nil => rfl
  | cons v l ih => rw [waveBytes, waveSymbols_waveByte_append h, ih, List.flatMap_cons]

/-- Reading back the waveform of plain bytes gives the bytes. -/
theorem bytesOfSymbols_waveBytes (h : cfg.wellFormed) (l : List Byte) :
    bytesOfSymbols (waveSymbols cfg (waveBytes cfg l)) = l := by
  rw [waveSymbols_waveBytes h, bytesOfSymbols_flatMap_byteSymbols]

end

/-- Settles O54: after the gap of a burst or the link reset of a packet come plain bytes, which are read
back as they are. -/
theorem payloadRoundTrip : Obligations.PayloadRoundTrip := by
  intro cfg a f p hcfg _
  refine ⟨?burst, waveSymbols cfg (waveBytes cfg ([a, f] ++ p ++ [xorFold p])), ?reset, ?bytes⟩
  case burst =>
    rw [waveBurst_eq_waveBytes, waveSymbols_z, bytesOfSymbols_waveBytes hcfg]
  case reset =>
    rw [wavePacket_eq_waveBytes, waveSymbols_waveReset_append hcfg]
  case bytes => exact bytesOfSymbols_waveBytes hcfg _

end Sys2Proof.Machine
end

section
/-! PROOFS. The family 43_pulse_encoder.md: the waveforms that are played (R166 to R172), the player's step
inside its list (R175), and the step that ends a slot (45_link_rx.md R217, 46_link_tx.md R234). -/

namespace Sys2Proof.Machine

open Sys2Proof

/-! ### Waveforms as lists (43_pulse_encoder.md R170 to R172) -/

theorem waveByte_eq_flatMap_cell (cfg : Config) (v m : Byte) :
    waveByte cfg v m = (List.range 8).flatMap (cell cfg v m) ++ idleGap cfg := by
  have hrange : List.range 8 = [0, 1, 2, 3, 4, 5, 6, 7] := rfl
  simp only [waveByte, hrange, List.flatMap_cons, List.flatMap_nil, List.append_nil, List.append_assoc]

theorem waveBytes_eq_flatMap (cfg : Config) (l : List Byte) :
    waveBytes cfg l = l.flatMap (fun v => waveByte cfg v 0x00#8) := by
  induction l with
  | nil => rfl
  | cons v l ih => rw [waveBytes, ih, List.flatMap_cons]

/-- Every cell begins with the short LOW (43_pulse_encoder.md R165). -/
theorem head?_cell (cfg : Config) (v m : Byte) (i : Nat) :
    (cell cfg v m i).head? = some (.d0 cfg.sUs) := by
  unfold cell
  split
  · rfl
  · split <;> rfl

theorem head?_waveByte (cfg : Config) (v m : Byte) :
    (waveByte cfg v m).head? = some (.d0 cfg.sUs) := by
  simp only [waveByte, List.head?_append, head?_cell, Option.some_or]

/-! ### Waveforms played (43_pulse_encoder.md R166 to R172) -/

theorem play_of_head? {w : List Segment} {g : Segment} (h : w.head? = some g) (s : State) :
    play w s = { s with segs := w, segRem := g.length, txState := .play } := by
  rw [play, h, Option.map_some, Option.getD_some]

theorem exec_one_transmitted (s : State) :
    exec (.one .transmitted) s = .next (play (cellOne s.cfg) s) := rfl

theorem exec_zero_transmitted (s : State) :
    exec (.zero .transmitted) s = .next (play (cellZero s.cfg) s) := rfl

theorem exec_zero_overlay (i : Nat) (s : State) :
    exec (.zero (.overlay i)) s = .next (play (cellOverlay s.cfg i) s) := rfl

theorem exec_reset_transmitted (s : State) :
    exec (.reset .transmitted) s = .next (play (waveReset s.cfg) s) := rfl

theorem exec_byte_sent (v m : Byte) (s : State) :
    exec (.byte (.sent v m)) s = .next (play (waveByte s.cfg v m) s) := rfl

theorem exec_packet_sent (a f m : Byte) (p : List Byte) (s : State) :
    exec (.packet (.sent a f p m)) s = .next (play (wavePacket s.cfg a f p m) s) := rfl

theorem exec_burst_sent (p : List Byte) (s : State) :
    exec (.burst (.sent p)) s = .next (play (waveBurst s.cfg p) s) := rfl

/-- Settles O32: each operation plays its waveform, whose first segment gives the count. -/
theorem waveformsTransmitted : Obligations.WaveformsTransmitted := by
  refine ⟨fun s i => ⟨?one, ?zero, ?overlay, ?reset⟩, waveByte_eq_flatMap_cell, fun s v m => ?byte,
    fun s a f m p => ?packet, fun s p => ?burst⟩
  case one => rw [exec_one_transmitted, play_of_head? rfl]; rfl
  case zero => rw [exec_zero_transmitted, play_of_head? rfl]; rfl
  case overlay => rw [exec_zero_overlay, play_of_head? rfl]; rfl
  case reset => rw [exec_reset_transmitted, play_of_head? rfl]; rfl
  case byte => rw [exec_byte_sent, play_of_head? (head?_waveByte _ v m)]; rfl
  case packet =>
    rw [exec_packet_sent, play_of_head? (g := .d0 s.cfg.resetTxLowUs) rfl, ← waveBytes_eq_flatMap]
    rfl
  case burst =>
    rw [exec_burst_sent, play_of_head? (g := .z s.cfg.replyGapUs) rfl, ← waveBytes_eq_flatMap]
    rfl

/-! ### One tick of the player (43_pulse_encoder.md R175) -/

theorem exec_playerStep (line : Level) (s : State) :
    exec (.playerStep line) s = .next (playTick line s) := rfl

theorem levelBit_eq_decide (line : Level) : levelBit line = decide (line = .high) := by
  cases line <;> rfl

section
variable {s : State} {g h : Segment} {rest tail : List Segment} {n i k : Nat} (line : Level)

theorem sampleOverlay_of_not_overlay (hs : s.segs = g :: rest) (hg : ∀ n i k, g ≠ .zs n i k) :
    sampleOverlay line s = s := by
  rcases sampleOverlay_cases line s with he | ⟨n, i, k, _, hs', -, -⟩
  · exact he
  · rw [hs] at hs'
    exact absurd (List.cons.inj hs').1 (hg n i k)

theorem sampleOverlay_of_due (hs : s.segs = .zs n i k :: rest) (hdue : n = k + s.segRem) :
    sampleOverlay line s = { s with rbVec := setBitTo s.rbVec i (decide (line = .high)) } := by
  rw [← levelBit_eq_decide]
  simp only [sampleOverlay, hs, if_pos hdue]

theorem sampleOverlay_of_not_due (hs : s.segs = .zs n i k :: rest) (hdue : n ≠ k + s.segRem) :
    sampleOverlay line s = s := by
  simp only [sampleOverlay, hs, if_neg hdue]

/-- The sample writes nothing but the overlay vector. -/
theorem sampleOverlay_frame (s : State) :
    sampleOverlay line s = { s with rbVec := (sampleOverlay line s).rbVec } := by
  rcases sampleOverlay_cases line s with he | ⟨_, _, _, _, -, -, he⟩ <;> rw [he]

@[simp] theorem sampleOverlay_segs (s : State) : (sampleOverlay line s).segs = s.segs := by
  rw [sampleOverlay_frame]

@[simp] theorem sampleOverlay_segRem (s : State) : (sampleOverlay line s).segRem = s.segRem := by
  rw [sampleOverlay_frame]

@[simp] theorem sampleOverlay_txState (s : State) : (sampleOverlay line s).txState = s.txState := by
  rw [sampleOverlay_frame]

theorem playTick_eq (hx : s.txState = .play) (hs : s.segs = g :: rest) :
    playTick line s = actIfEmpty (advancePlayer (sampleOverlay line s)) := by
  rw [playTick, if_pos ⟨hx, by simp [hs]⟩]

theorem actIfEmpty_of_cons (hs : s.segs = g :: rest) : actIfEmpty s = s := by
  rw [actIfEmpty, if_neg (by simp [hs])]

theorem advancePlayer_counts (hs : s.segs = g :: rest) (hrem : 1 < s.segRem) :
    advancePlayer s = { s with segRem := s.segRem - 1 } := by
  simp only [advancePlayer, hs, if_pos hrem]

theorem advancePlayer_next (hs : s.segs = g :: h :: tail) (hrem : s.segRem = 1) :
    advancePlayer s = { s with segs := h :: tail, segRem := h.length } := by
  simp [advancePlayer, hs, hrem]

theorem advancePlayer_last (hs : s.segs = [g]) (hrem : s.segRem = 1) :
    advancePlayer s = { s with segs := [] } := by
  simp [advancePlayer, hs, hrem]

/-- Before its last tick the head segment counts down. -/
theorem playTick_counts (hx : s.txState = .play) (hs : s.segs = g :: rest) (hrem : 1 < s.segRem) :
    playTick line s = { sampleOverlay line s with segRem := s.segRem - 1 } := by
  have hsegs : (sampleOverlay line s).segs = g :: rest := by rw [sampleOverlay_segs, hs]
  have hcount : 1 < (sampleOverlay line s).segRem := by rwa [sampleOverlay_segRem]
  rw [playTick_eq line hx hs, advancePlayer_counts hsegs hcount, sampleOverlay_segRem]
  exact actIfEmpty_of_cons hsegs

/-- The last tick of a segment that is not the last makes the next one the head. -/
theorem playTick_next (hx : s.txState = .play) (hs : s.segs = g :: h :: tail) (hrem : s.segRem = 1) :
    playTick line s = { sampleOverlay line s with segs := h :: tail, segRem := h.length } := by
  have hsegs : (sampleOverlay line s).segs = g :: h :: tail := by rw [sampleOverlay_segs, hs]
  have hcount : (sampleOverlay line s).segRem = 1 := by rw [sampleOverlay_segRem, hrem]
  rw [playTick_eq line hx hs, advancePlayer_next hsegs hcount]
  exact actIfEmpty_of_cons rfl

/-- The last tick of the last segment runs the role's list-empty action. -/
theorem playTick_last (hx : s.txState = .play) (hs : s.segs = [g]) (hrem : s.segRem = 1) :
    playTick line s = listEmptyAction { sampleOverlay line s with segs := [] } := by
  have hsegs : (sampleOverlay line s).segs = [g] := by rw [sampleOverlay_segs, hs]
  have hcount : (sampleOverlay line s).segRem = 1 := by rw [sampleOverlay_segRem, hrem]
  rw [playTick_eq line hx hs, advancePlayer_last hsegs hcount]
  exact if_pos rfl

end

/-- Settles O33: the sample of the head, if one is due, and then the count or the next segment. -/
theorem playerStep : Obligations.PlayerStep := by
  intro s line g rest hx hs
  rw [exec_playerStep]
  refine ⟨fun hg => ⟨fun hrem => ?plainCounts, fun h tail hrem hrest => ?plainNext⟩,
    fun n i k hg hrem => ?overlayCounts, fun n i k h tail hg hrem hrest => ?overlayNext⟩
  case plainCounts =>
    rw [playTick_counts line hx hs hrem, sampleOverlay_of_not_overlay line hs hg]
  case plainNext =>
    rw [hrest] at hs
    rw [playTick_next line hx hs hrem, sampleOverlay_of_not_overlay line hs hg]
  case overlayCounts =>
    rw [hg] at hs
    rw [playTick_counts line hx hs hrem]
    exact ⟨fun hdue => by rw [sampleOverlay_of_due line hs hdue],
      fun hdue => by rw [sampleOverlay_of_not_due line hs hdue]⟩
  case overlayNext =>
    rw [hg, hrest] at hs
    rw [playTick_next line hx hs hrem, ← hrem]
    exact ⟨fun hdue => by rw [sampleOverlay_of_due line hs hdue],
      fun hdue => by rw [sampleOverlay_of_not_due line hs hdue]⟩

/-! ### The ticks of one segment (43_pulse_encoder.md R175) -/

/-- The player runs the list `w`, whose head has `n` ticks to go. -/
structure PlayerAt (w : List Segment) (n : Nat) (s : State) : Prop where
  segs : s.segs = w
  segRem : s.segRem = n
  playing : s.txState = .play

namespace PlayerAt

variable {s : State} {g h : Segment} {rest : List Segment} {n j : Nat}

theorem playTick_counts (hat : PlayerAt (g :: rest) n s) (hn : 1 < n) (line : Level) :
    PlayerAt (g :: rest) (n - 1) (playTick line s) := by
  obtain ⟨hs, rfl, hx⟩ := hat
  rw [Machine.playTick_counts line hx hs hn]
  exact ⟨(sampleOverlay_segs line s).trans hs, rfl, (sampleOverlay_txState line s).trans hx⟩

theorem playTick_next (hat : PlayerAt (g :: h :: rest) 1 s) (line : Level) :
    PlayerAt (h :: rest) h.length (playTick line s) := by
  obtain ⟨hs, hrem, hx⟩ := hat
  rw [Machine.playTick_next line hx hs hrem]
  exact ⟨rfl, rfl, (sampleOverlay_txState line s).trans hx⟩

/-- Fewer ticks than the head has to go leave it the head. -/
theorem playTicks_counts (hat : PlayerAt (g :: rest) n s) (hj : j < n) (line : Level) :
    PlayerAt (g :: rest) (n - j) (playTicks j line s) := by
  induction j generalizing n s with
  | zero => exact hat
  | succ j ih =>
    have hrest := ih (hat.playTick_counts (by omega) line) (by omega)
    rwa [Nat.sub_sub, Nat.add_comm 1 j] at hrest

/-- As many ticks as the head has to go end it. -/
theorem playTicks_next (hat : PlayerAt (g :: h :: rest) n s) (hn : 1 ≤ n) (line : Level) :
    PlayerAt (h :: rest) h.length (playTicks n line s) := by
  induction n, hn using Nat.le_induction generalizing s with
  | base => exact hat.playTick_next line
  | succ n hn ih => exact ih (hat.playTick_counts (by omega) line)

end PlayerAt

/-- Settles O34, by induction on the number of ticks: each but the last counts the head down by one. -/
theorem segmentRunsItsLength : Obligations.SegmentRunsItsLength := by
  intro s line g h rest hx hs hrem hlen
  have hat : PlayerAt (g :: h :: rest) g.length s := ⟨hs, hrem, hx⟩
  refine ⟨fun j hj => ?during, ?after⟩
  case during =>
    obtain ⟨hsegs, hcount, hplay⟩ := hat.playTicks_counts hj line
    exact ⟨hsegs, hcount, hplay⟩
  case after =>
    obtain ⟨hsegs, hcount, hplay⟩ := hat.playTicks_next hlen line
    exact ⟨hsegs, hcount, hplay⟩

/-! ### The end of a slot (45_link_rx.md R217, 46_link_tx.md R234) -/

section
variable {s : State}

theorem listEmptyAction_rx (hr : s.pins.role = .rx) : listEmptyAction s = endReply s := by
  rw [listEmptyAction, hr]

theorem listEmptyAction_tx (hr : s.pins.role = .tx) : listEmptyAction s = slotAction s := by
  rw [listEmptyAction, hr]

theorem slotAction_zero (hk : s.txSlot = 0) : slotAction s = playHeader s := by
  simp only [slotAction, hk]

theorem slotAction_one (hk : s.txSlot = 1) : slotAction s = playFlags (foldOverlay s) := by
  simp only [slotAction, hk]

theorem slotAction_two (hk : s.txSlot = 2) : slotAction s = playPayload (dequeue s) := by
  simp only [slotAction, hk]

theorem slotAction_twelve (hk : s.txSlot = 12) : slotAction s = playParity s := by
  simp only [slotAction, hk]

theorem slotAction_thirteen (hk : s.txSlot = 13) :
    slotAction s = if s.txrSeen then enterReadBack s else endCycle s := by
  simp only [slotAction, hk]

/-- The slots after which another byte of the payload is due (46_link_tx.md R241). -/
theorem slotAction_payload (hlo : 3 ≤ s.txSlot) (hhi : s.txSlot ≤ 11) :
    slotAction s = playPayload s := by
  rcases slotAction_cases s with ⟨hk, -⟩ | ⟨hk, -⟩ | ⟨hk, -⟩ | ⟨-, -, he⟩ | ⟨hk, -⟩ | ⟨hk, -, -⟩ |
    ⟨hk, -, -⟩ | ⟨hk, -⟩
  case inr.inr.inr.inl => exact he
  all_goals omega

theorem dequeue_queued (hq : 0 < s.qLen) :
    dequeue s = { s with txbuf := queuedPayload s, qLen := 0 } := if_pos hq

theorem dequeue_empty (hq : s.qLen = 0) : dequeue s = { s with txbuf := zeros 10 } :=
  if_neg (by omega)

/-- A slot after the preamble plays a byte, which begins with the short LOW of its first cell. -/
theorem playSlot_waveByte (hx : s.txState = .play) (k : Nat) (v m : Byte) :
    playSlot k (waveByte s.cfg v m) s =
      { s with segs := waveByte s.cfg v m, segRem := s.cfg.sUs, txSlot := k } := by
  rw [playSlot, play_of_head? (head?_waveByte s.cfg v m), ← hx]
  rfl

theorem exec_playerStep_slotEnd (hx : s.txState = .play) {n : Nat} (hs : s.segs = [.d1 n])
    (hrem : s.segRem = 1) (line : Level) :
    exec (.playerStep line) s = .next (listEmptyAction { s with segs := [] }) := by
  rw [exec_playerStep, playTick_last line hx hs hrem, sampleOverlay_of_not_overlay line hs (by simp)]

end

/-- Settles O35: the last tick of a slot takes no sample, and the list-empty action of the role is the row
of R217 or of R234 for the slot. -/
theorem slotEndActions : Obligations.SlotEndActions := by
  intro s line n hx hs hrem
  rw [exec_playerStep_slotEnd hx hs hrem line]
  refine ⟨fun hr => ?rx, fun hr => ?tx⟩
  case rx => rw [listEmptyAction_rx (by exact hr)]; rfl
  case tx =>
    rw [listEmptyAction_tx (by exact hr)]
    refine ⟨fun hk => ?header, fun hk => ?flags, fun hk hq => ?queued, fun hk hq => ?keepAlive,
      fun hlo hhi => ?payload, fun hk => ?parity, fun hk hseen => ?ended, fun hk hseen => ?readBack⟩
    case header =>
      rw [slotAction_zero (by exact hk), playHeader_eq, playSlot_waveByte (by exact hx)]
      rfl
    case flags =>
      rw [slotAction_one (by exact hk), playFlags_eq, playSlot_waveByte (by exact hx)]
      rfl
    case queued =>
      rw [slotAction_two (by exact hk), dequeue_queued (by exact hq), playPayload_eq,
        playSlot_waveByte (by exact hx)]
      simp only [hk]
      rfl
    case keepAlive =>
      rw [slotAction_two (by exact hk), dequeue_empty (by exact hq), playPayload_eq,
        playSlot_waveByte (by exact hx)]
      simp only [hk]
      rfl
    case payload =>
      rw [slotAction_payload (by exact hlo) (by exact hhi), playPayload_eq,
        playSlot_waveByte (by exact hx)]
    case parity =>
      rw [slotAction_twelve (by exact hk), playParity_eq, playSlot_waveByte (by exact hx)]
    case ended => rw [slotAction_thirteen (by exact hk), if_neg (by simp [hseen])]; rfl
    case readBack => rw [slotAction_thirteen (by exact hk), if_pos (by exact hseen)]; rfl

end Sys2Proof.Machine
end

section
/-! PROOFS. The family 44_arbitration_header.md: the requests on a header flag (R186 to R196), a flag as the
other party's block sees it (R187 to R194), and the decoded and published header (R185, R197, R198). -/

namespace Sys2Proof.Machine

open Sys2Proof

/-! ### The requests of a flag's two hosts (44_arbitration_header.md R195, R196) -/

section
variable {s : State} {owner : Role}

theorem setFlagOf_owner (h : s.pins.role = owner) (m : Byte) : setFlagOf owner m s = setFlags m s := by
  rw [setFlagOf, if_pos h]

theorem clearFlagOf_owner (h : s.pins.role = owner) (m : Byte) :
    clearFlagOf owner m s = clearFlags m s := by
  rw [clearFlagOf, if_pos h]

theorem takeFlagOf_owner (h : s.pins.role = owner) (k : Nat) :
    takeFlagOf owner k s = respond true false s := if_pos h

/-- SETF of no bit changes no flag. -/
theorem setFlags_zero (s : State) : setFlags 0x00#8 s = respond true false s := by
  rw [setFlags, BitVec.zero_and, BitVec.or_zero]

/-- CLRF of no bit changes no flag. -/
theorem clearFlags_zero (s : State) : clearFlags 0x00#8 s = respond true false s := by
  rw [clearFlags, BitVec.not_zero, BitVec.and_allOnes]

theorem setFlagOf_other (h : s.pins.role ≠ owner) (m : Byte) :
    setFlagOf owner m s = respond true false s := by
  rw [setFlagOf, if_neg h, setFlags_zero]

theorem clearFlagOf_other (h : s.pins.role ≠ owner) (m : Byte) :
    clearFlagOf owner m s = respond true false s := by
  rw [clearFlagOf, if_neg h, clearFlags_zero]

theorem takeFlagOf_other (h : s.pins.role ≠ owner) (k : Nat) :
    takeFlagOf owner k s = takeBit k s := if_neg h

/-- SETF under the ownership mask of the transmit role (47_host_commands.md R269). -/
theorem setFlags_tx (h : s.pins.role = .tx) (m : Byte) :
    setFlags m s = { s with
      outFlags := s.outFlags ||| (m &&& s.cfg.hostOwnMask), cmdOk := true, cmdResult := false } := by
  rw [setFlags, h, ownMask, respond]

/-- SETF under the ownership mask of the receive role (47_host_commands.md R269). -/
theorem setFlags_rx (h : s.pins.role = .rx) (m : Byte) :
    setFlags m s = { s with
      outFlags := s.outFlags ||| (m &&& s.cfg.remoteOwnMask), cmdOk := true, cmdResult := false } := by
  rw [setFlags, h, ownMask, respond]

/-- TAKE by the host in the receive role gives the chunker no opportunity
(49_text_chunker_boundary.md R307). -/
theorem takeBit_rx (h : s.pins.role = .rx) (k : Nat) :
    takeBit k s = { s with
      peerFlags := setBitTo s.peerFlags k false, cmdOk := true, cmdResult := bitOf s.peerFlags k } := by
  have hno : isOpportunity k s = false := by simp [isOpportunity, h]
  rw [takeBit, hno, Bool.or_false, respond]

/-- TAKE by the host in the transmit role gives one where it answers `READY_FOR_TEXT` with 1
(49_text_chunker_boundary.md R307). -/
theorem takeBit_tx (h : s.pins.role = .tx) (k : Nat) :
    takeBit k s = { s with
      peerFlags := setBitTo s.peerFlags k false, cmdOk := true, cmdResult := bitOf s.peerFlags k,
      textReady := s.textReady || (decide (k = 1) && bitOf s.peerFlags k) } := by
  have hopp : isOpportunity k s = (decide (k = 1) && bitOf s.peerFlags k) := by simp [isOpportunity, h]
  rw [takeBit, hopp, respond]

end

/-- A row of `HFLAG` or `RFLAG`: its requests are the commands on its own bit, under its owner
(30_encoding.md R88, R89). -/
structure FlagRowOf (owner : Role) (r : Nat × (FlagForm → Instr)) : Prop where
  exec_set : ∀ s, exec (r.2 .set) s = .next (setFlagOf owner (1#8 <<< r.1) s)
  exec_clear : ∀ s, exec (r.2 .clear) s = .next (clearFlagOf owner (1#8 <<< r.1) s)
  exec_take : ∀ s, exec (r.2 .take) s = .next (takeFlagOf owner r.1 s)

theorem flagRowOf_hostFlagRows : ∀ r ∈ hostFlagRows, FlagRowOf .tx r := by
  intro r hr
  simp only [hostFlagRows, List.mem_cons, List.not_mem_nil, or_false] at hr
  obtain rfl | rfl | rfl | rfl := hr
  all_goals exact ⟨fun _ => rfl, fun _ => rfl, fun _ => rfl⟩

theorem flagRowOf_remoteFlagRows : ∀ r ∈ remoteFlagRows, FlagRowOf .rx r := by
  intro r hr
  simp only [remoteFlagRows, List.mem_cons, List.not_mem_nil, or_false] at hr
  obtain rfl | rfl | rfl | rfl | rfl := hr
  all_goals exact ⟨fun _ => rfl, fun _ => rfl, fun _ => rfl⟩

section
variable {owner : Role} {r : Nat × (FlagForm → Instr)} {s : State}

/-- The owner's host sets and clears the flag and takes nothing. -/
theorem FlagRowOf.exec_owner (hrow : FlagRowOf owner r) (h : s.pins.role = owner) :
    exec (r.2 .set) s = .next (setFlags (1#8 <<< r.1) s) ∧
    exec (r.2 .clear) s = .next (clearFlags (1#8 <<< r.1) s) ∧
    exec (r.2 .take) s = .next (respond true false s) := by
  rw [hrow.exec_set, hrow.exec_clear, hrow.exec_take, setFlagOf_owner h, clearFlagOf_owner h,
    takeFlagOf_owner h]
  exact ⟨rfl, rfl, rfl⟩

/-- The other party's host takes the flag and neither sets nor clears one. -/
theorem FlagRowOf.exec_other (hrow : FlagRowOf owner r) (h : s.pins.role ≠ owner) :
    exec (r.2 .set) s = .next (respond true false s) ∧
    exec (r.2 .clear) s = .next (respond true false s) ∧
    exec (r.2 .take) s = .next (takeBit r.1 s) := by
  rw [hrow.exec_set, hrow.exec_clear, hrow.exec_take, setFlagOf_other h, clearFlagOf_other h,
    takeFlagOf_other h]
  exact ⟨rfl, rfl, rfl⟩

end

/-- Settles O45: each row's requests are the port's commands on its bit, and the role selects the owner's
side or the other party's. -/
theorem flagsSetClearedTaken : Obligations.FlagsSetClearedTaken := by
  intro s
  refine ⟨fun r hr => ⟨fun htx => ?hostOwner, fun hrx => ?hostOther⟩,
    fun r hr => ⟨fun hrx => ?remoteOwner, fun htx => ?remoteOther⟩⟩
  case hostOwner =>
    rw [← setFlags_tx htx]
    exact (flagRowOf_hostFlagRows r hr).exec_owner htx
  case hostOther =>
    rw [← takeBit_rx hrx]
    exact (flagRowOf_hostFlagRows r hr).exec_other (by simp [hrx])
  case remoteOwner =>
    rw [← setFlags_rx hrx]
    exact (flagRowOf_remoteFlagRows r hr).exec_owner hrx
  case remoteOther =>
    rw [← takeBit_tx htx]
    exact (flagRowOf_remoteFlagRows r hr).exec_other (by simp [htx])

/-! ### Host flags seen in an accepted packet (44_arbitration_header.md R187 to R189) -/

section
variable {s : State}

theorem exec_dataAvailSeen (h : packetAccepted s) :
    exec (.dataAvail .seen) s = .next (showHostFlag 0 s) := congrArg Host.Outcome.next (if_pos h)

theorem exec_errorHostSeen (h : packetAccepted s) :
    exec (.errorHost .seen) s = .next (showHostFlag 6 s) := congrArg Host.Outcome.next (if_pos h)

theorem exec_busAvailSeen (h : packetAccepted s) :
    exec (.busAvail .seen) s = .next (replyIfGranted (showHostFlag 4 s)) :=
  congrArg Host.Outcome.next (if_pos h)

/-- The reply depends on nothing that showing a flag writes. -/
theorem replyGranted_showHostFlag (k : Nat) (s : State) :
    replyGranted (showHostFlag k s) ↔ replyGranted s := Iff.rfl

theorem replyIfGranted_showHostFlag_of_not (h : ¬ replyGranted s) (k : Nat) :
    replyIfGranted (showHostFlag k s) = showHostFlag k s :=
  if_neg (mt (replyGranted_showHostFlag k s).1 h)

theorem replyIfGranted_showHostFlag (h : replyGranted s) (k : Nat) :
    replyIfGranted (showHostFlag k s) = startReply (showHostFlag k s) :=
  if_pos ((replyGranted_showHostFlag k s).2 h)

end

/-- Settles O46: the packet is accepted, each flag's bit is shown, and the reply burst follows `BUS_AVAIL`
where it is granted. -/
theorem hostFlagsSeen : Obligations.HostFlagsSeen := by
  intro s hrx hfull hgate hparity
  have hacc : packetAccepted s := ⟨⟨hrx, hfull⟩, hgate, (packetParityOk_iff s).2 hparity⟩
  refine ⟨exec_dataAvailSeen hacc, exec_errorHostSeen hacc, fun hno => ?noReply,
    fun hen hbus hq => ?reply⟩
  case noReply =>
    rw [exec_busAvailSeen hacc, replyIfGranted_showHostFlag_of_not (not_replyGranted hno), showHostFlag]
  case reply =>
    rw [exec_busAvailSeen hacc, replyIfGranted_showHostFlag ⟨hen, hbus, hq⟩, startReply_eq, showHostFlag,
      hbus]
    rfl

/-! ### Remote flags seen in the overlay vector (44_arbitration_header.md R190 to R194) -/

section
variable {s : State}

/-- The remote flags that do nothing but follow the vector. -/
theorem exec_foldedFlagSeen (h : slotEnded 1 s) :
    ∀ r ∈ [((1, .readyForText) : Nat × (FlagForm → Instr)), (2, .timerRequest), (6, .errorRemote),
        (7, .isInit)],
      exec (r.2 .seen) s = .next (foldFlag r.1 s) := by
  intro r hr
  simp only [List.mem_cons, List.not_mem_nil, or_false] at hr
  obtain rfl | rfl | rfl | rfl := hr
  all_goals exact congrArg Host.Outcome.next (if_pos h)

theorem exec_txReadySeen (h : slotEnded 1 s) :
    exec (.txReady .seen) s = .next { foldFlag 4 s with txrSeen := bitOf s.rbVec 4 } :=
  congrArg Host.Outcome.next (if_pos h)

end

/-- Settles O47: byte 0 has ended, so each flag's bit is that of the folded vector. -/
theorem remoteFlagsSeen : Obligations.RemoteFlagsSeen := by
  intro s htx hplay hsegs hslot
  have hend : slotEnded 1 s := ⟨htx, hplay, hsegs, hslot⟩
  exact ⟨exec_foldedFlagSeen hend, exec_txReadySeen hend⟩

/-! ### The header decoded and published (44_arbitration_header.md R185, R197, R198) -/

section
variable {s : State}

theorem exec_hdrDecode (src : HdrSource) (s : State) :
    exec (.hdrDecode src) s = .next { s with ephem := headerView src s } := rfl

theorem exec_hdrEncode (s : State) : exec .hdrEncode s = .next { s with ephem := .byte s.outFlags } := rfl

/-- The transmit role's own flags have the host vocabulary, the peer's flags and the overlay vector the
remote vocabulary. -/
theorem headerView_tx (h : s.pins.role = .tx) :
    headerView .ownFlags s = .hostHeader (hostFlags s.outFlags) ∧
    headerView .peerFlags s = .remoteHeader (remoteFlags s.peerFlags) ∧
    headerView .overlayVector s = .remoteHeader (remoteFlags s.rbVec) := by
  simp only [headerView, h, and_self]

/-- The receive role's own flags have the remote vocabulary, the peer's flags and byte 1 of a packet the host
vocabulary. -/
theorem headerView_rx (h : s.pins.role = .rx) :
    headerView .ownFlags s = .remoteHeader (remoteFlags s.outFlags) ∧
    headerView .peerFlags s = .hostHeader (hostFlags s.peerFlags) ∧
    headerView .packetByte s = .hostHeader (hostFlags (byteAt s.pkt 1)) := by
  simp only [headerView, h, and_self]

end

/-- Settles O48: the role selects the vocabulary of each flag byte, and a view is the record of its named
bits. -/
theorem headerDecodeAndEncode : Obligations.HeaderDecodeAndEncode := by
  intro s
  simp only [exec_hdrDecode]
  refine ⟨fun htx => ?tx, fun hrx => ?rx, exec_hdrEncode s⟩
  case tx =>
    obtain ⟨hown, hpeer, hvector⟩ := headerView_tx htx
    rw [hown, hpeer, hvector]
    exact ⟨rfl, rfl, rfl⟩
  case rx =>
    obtain ⟨hown, hpeer, hbyte⟩ := headerView_rx hrx
    rw [hown, hpeer, hbyte]
    exact ⟨rfl, rfl, rfl⟩

end Sys2Proof.Machine
end

section
/-! PROOFS. The family 45_link_rx.md: the link reset (R206, R210), the falling edge that ends `RD` (R207), the
time-out (R211) and its bound on a silent line (R212), the inject (R213 to R215, R218) and the reply burst
(R216, R217). -/

namespace Sys2Proof.Machine

open Sys2Proof

/-! ### A link reset (45_link_rx.md R206, R210) -/

section
variable {s : State}

theorem exec_reset_decoded {d : Nat} (h : classify s.cfg d = .reset) :
    exec (.reset (.decoded d)) s = .next (consumeReset s) := congrArg Host.Outcome.next (if_pos h)

theorem consumeReset_awaitingSync (hl : listening s) (has : s.linkState = .awaitingSync) :
    consumeReset s = syncLink s := by
  rw [consumeReset, if_pos hl, has]

theorem consumeReset_gatheringPacket (hl : listening s) (hgp : s.linkState = .gatheringPacket) :
    consumeReset s = raise .prematureReset s := by
  rw [consumeReset, if_pos hl, hgp]

theorem exec_rxSync (h : listening s ∧ s.linkState = .awaitingSync) :
    exec .rxSync s = .next (syncLink s) := congrArg Host.Outcome.next (if_pos h)

theorem exec_rxResync (h : listening s ∧ s.linkState = .gatheringPacket) :
    exec .rxResync s = .next (raise .prematureReset s) := congrArg Host.Outcome.next (if_pos h)

/-- The marks of a link reset inside a frame tell how much of it was gathered (60_exceptions.md R324). -/
theorem raise_prematureReset_rx (hrx : s.pins.role = .rx) :
    raise .prematureReset s = { s with
      diag := s.diag |||
        ((if s.cfg.minLogBits ≤ 8 * s.byteIdx + s.bitIdx then 0x02#8 else 0x00#8) |||
         (if s.cfg.minValidBytes ≤ s.byteIdx then 0x10#8 else 0x00#8)),
      bitIdx := 0, byteIdx := 0, curByte := 0x00#8, linkState := .awaitingSync } := by
  rw [raise_prematureReset, toRestart_rx (by exact hrx), conditionMarks, gatheredBits, unexpReset,
    truncPkt]

end

/-- Settles O18: the symbol and the event are one operation of the receiver, chosen by the link state. -/
theorem linkResetInReceiver : Obligations.LinkResetInReceiver := by
  intro s d hrx hidle hreset
  have hl : listening s := ⟨hrx, hidle⟩
  refine ⟨fun has => ?awaitingSync, fun hgp => ?gatheringPacket⟩ <;>
    rw [List.forall_mem_cons, List.forall_mem_singleton]
  case awaitingSync =>
    rw [exec_reset_decoded hreset, consumeReset_awaitingSync hl has, exec_rxSync ⟨hl, has⟩, syncLink]
    exact ⟨rfl, rfl⟩
  case gatheringPacket =>
    rw [exec_reset_decoded hreset, consumeReset_gatheringPacket hl hgp, exec_rxResync ⟨hl, hgp⟩,
      raise_prematureReset_rx hrx]
    exact ⟨rfl, rfl⟩

/-! ### The end of `RD` (45_link_rx.md R207, R213) -/

section
variable {s : State}

theorem exec_falling_resetDetected (h : listening s ∧ s.linkState = .resetDetected) (d : Nat) :
    exec (.falling d) s = .next (startGathering s) := congrArg Host.Outcome.next (if_pos h)

theorem exec_rxStart (h : listening s ∧ s.linkState = .resetDetected) :
    exec .rxStart s = .next (startGathering s) := congrArg Host.Outcome.next (if_pos h)

theorem not_injectWanted (h : s.pins.injEn = false ∨ s.outFlags = 0x00#8) : ¬ injectWanted s := by
  rintro ⟨hen, hflag⟩
  rcases h with hoff | hnone
  · simp [hoff] at hen
  · exact hflag hnone

theorem armInject_of_wanted (h : injectWanted s) :
    armInject s = { s with injState := .wait, injCtr := s.cfg.injectDelayUs } := if_pos h

theorem armInject_of_not_wanted (h : ¬ injectWanted s) : armInject s = s := if_neg h

end

/-- Settles O21: the edge and the event start the frame, which arms the inject if it is wanted. -/
theorem fallingEdgeStartsFrame : Obligations.FallingEdgeStartsFrame := by
  intro s d hrx hidle hrd i hi
  have hrdl : listening s ∧ s.linkState = .resetDetected := ⟨⟨hrx, hidle⟩, hrd⟩
  have hexec : exec i s = .next (startGathering s) := by
    simp only [List.mem_cons, List.not_mem_nil, or_false] at hi
    rcases hi with rfl | rfl
    · exact exec_falling_resetDetected hrdl d
    · exact exec_rxStart hrdl
  rw [hexec, startGathering]
  refine ⟨fun hen hflag => ?armed, fun hno => ?notArmed⟩
  case armed =>
    rw [armInject_of_wanted (by exact ⟨hen, hflag⟩), startFrame]
  case notArmed =>
    rw [armInject_of_not_wanted (not_injectWanted (by exact hno)), startFrame]

/-! ### The time-out (45_link_rx.md R211, 60_exceptions.md R326) -/

section
variable {s : State}

theorem raise_starvation_rx (hrx : s.pins.role = .rx) :
    raise .starvation s = { s with
      diag := s.diag ||| 0x04#8, bitIdx := 0, byteIdx := 0, curByte := 0x00#8,
      linkState := .awaitingSync } := by
  rw [raise_starvation, toRestart_rx (by exact hrx), timeoutErr]

theorem exec_rxTimeout_of_due (hl : listening s) (hframe : s.linkState ≠ .awaitingSync)
    (hdue : timedOut s) : exec .rxTimeout s = .next { s with
      diag := s.diag ||| 0x04#8, bitIdx := 0, byteIdx := 0, curByte := 0x00#8,
      linkState := .awaitingSync } :=
  congrArg Host.Outcome.next ((if_pos ⟨⟨hl, hframe⟩, hdue⟩).trans (raise_starvation_rx hl.1))

theorem exec_rxTimeout_of_not_due (h : s.linkState = .awaitingSync ∨ ¬ timedOut s) :
    exec .rxTimeout s = .next s :=
  congrArg Host.Outcome.next (if_neg fun ⟨⟨_, hframe⟩, hdue⟩ =>
    h.elim (fun has => hframe has) (fun hearly => hearly hdue))

end

/-- Settles O28, from the two cases of the test. -/
theorem receiverTimeout : Obligations.ReceiverTimeout := by
  intro s hrx hidle
  exact ⟨exec_rxTimeout_of_due ⟨hrx, hidle⟩,
    fun h => exec_rxTimeout_of_not_due (h.imp_right Nat.not_le_of_lt)⟩

/-! ### The inject (45_link_rx.md R213 to R215, R218) -/

section
variable {s : State}

theorem exec_rxInject_arm
    (h : (listening s ∧ s.linkState = .gatheringPacket) ∧ s.byteIdx = 0 ∧ s.bitIdx = 0) :
    exec (.rxInject .arm) s = .next (armInject s) := congrArg Host.Outcome.next (if_pos h)

/-- Arming outside bit 0 of byte 0, or where no inject is wanted, changes nothing. -/
theorem exec_rxInject_arm_of_not
    (h : ¬ (((listening s ∧ s.linkState = .gatheringPacket) ∧ s.byteIdx = 0 ∧ s.bitIdx = 0) ∧
      injectWanted s)) :
    exec (.rxInject .arm) s = .next s := by
  by_cases hopen : (listening s ∧ s.linkState = .gatheringPacket) ∧ s.byteIdx = 0 ∧ s.bitIdx = 0
  · rw [exec_rxInject_arm hopen, armInject_of_not_wanted fun hwanted => h ⟨hopen, hwanted⟩]
  · exact congrArg Host.Outcome.next (if_neg hopen)

theorem exec_rxInject_tick (hl : listening s) (line : Level) :
    exec (.rxInject (.tick line)) s = .next (injectTick line s) := congrArg Host.Outcome.next (if_pos hl)

theorem exec_rxInject_tick_of_not_listening (hl : ¬ listening s) (line : Level) :
    exec (.rxInject (.tick line)) s = .next s := congrArg Host.Outcome.next (if_neg hl)

theorem injectTick_off (h : s.injState = .off) (line : Level) : injectTick line s = s := by
  simp only [injectTick, h]

/-- Before the last tick of a phase the inject only counts. -/
theorem injectTick_counts (hin : s.injState ≠ .off) (hctr : 1 < s.injCtr) (line : Level) :
    injectTick line s = { s with injCtr := s.injCtr - 1 } := by
  cases hphase : s.injState with
  | off => exact absurd hphase hin
  | wait => simp only [injectTick, hphase, if_pos hctr]
  | drive => simp only [injectTick, hphase, if_pos hctr]

/-- The sample at the end of the wait finds the cell LOW: the drive begins. -/
theorem injectTick_samplesLow (hwait : s.injState = .wait) (hctr : s.injCtr ≤ 1) :
    injectTick .low s = { s with injState := .drive, injCtr := s.cfg.injectUs } := by
  simp only [injectTick, hwait, if_neg (Nat.not_lt.2 hctr)]

/-- The sample at the end of the wait finds the line HIGH: the inject ends without a drive. -/
theorem injectTick_samplesHigh (hwait : s.injState = .wait) (hctr : s.injCtr ≤ 1) :
    injectTick .high s = { s with injState := .off } := by
  simp only [injectTick, hwait, if_neg (Nat.not_lt.2 hctr)]

theorem injectTick_endsDrive (hdrive : s.injState = .drive) (hctr : s.injCtr ≤ 1) (line : Level) :
    injectTick line s = { s with injState := .off } := by
  simp only [injectTick, hdrive, if_neg (Nat.not_lt.2 hctr)]

end

/-- Settles O30: arming and ticking have one trigger each, and the phase and its count select what a tick
does. -/
theorem injectMachine : Obligations.InjectMachine := by
  intro s line hrx
  refine ⟨fun hidle hgp hbyte hbit hen hflag => ?arm, fun hno => ?noArm, fun hidle => ?tick,
    fun hbusy => ?frozen⟩
  case arm =>
    rw [exec_rxInject_arm ⟨⟨⟨hrx, hidle⟩, hgp⟩, hbyte, hbit⟩, armInject_of_wanted ⟨hen, hflag⟩]
  case noArm =>
    refine exec_rxInject_arm_of_not ?_
    rintro ⟨⟨⟨⟨-, hidle⟩, hgp⟩, hbyte, hbit⟩, hwanted⟩
    rcases hno with h | h | h | h | h
    · exact h hidle
    · exact h hgp
    · exact h hbyte
    · exact h hbit
    · exact not_injectWanted h hwanted
  case tick =>
    simp only [exec_rxInject_tick ⟨hrx, hidle⟩]
    refine ⟨fun hoff => ?_, fun hin hctr => ?_, fun hwait hctr => ⟨?_, ?_⟩, fun hdrive hctr => ?_⟩
    · rw [injectTick_off hoff]
    · rw [injectTick_counts hin hctr]
    · rw [injectTick_samplesLow hwait hctr]
    · rw [injectTick_samplesHigh hwait hctr]
    · rw [injectTick_endsDrive hdrive hctr]
  case frozen => exact exec_rxInject_tick_of_not_listening (fun hl => hbusy hl.2) line

/-! ### The reply burst (45_link_rx.md R216, R217) -/

section
variable {s : State}

theorem exec_rxReply_start (h : packetAccepted s) :
    exec (.rxReply .start) s = .next (replyIfGranted s) := congrArg Host.Outcome.next (if_pos h)

theorem exec_rxReply_finish (h : s.pins.role = .rx ∧ s.txState = .play ∧ s.segs = []) :
    exec (.rxReply .finish) s = .next (endReply s) := congrArg Host.Outcome.next (if_pos h)

theorem replyIfGranted_of_granted (h : replyGranted s) : replyIfGranted s = startReply s := if_pos h

theorem replyIfGranted_of_not (h : ¬ replyGranted s) : replyIfGranted s = s := if_neg h

end

/-- Settles O31: in an accepted packet the grant decides about the start, and an empty list ends the burst. -/
theorem replyBurst : Obligations.ReplyBurst := by
  intro s hrx
  refine ⟨fun hfull hgate hok => ?start, fun hplay hempty => ?finish⟩
  case start =>
    have haccepted : packetAccepted s := ⟨⟨hrx, hfull⟩, hgate, (packetParityOk_iff s).2 hok⟩
    rw [exec_rxReply_start haccepted]
    refine ⟨fun hen hbus hq => ?granted, fun hno => ?notGranted⟩
    case granted => rw [replyIfGranted_of_granted ⟨hen, hbus, hq⟩, startReply_eq, queuedPayload]
    case notGranted => rw [replyIfGranted_of_not (not_replyGranted hno)]
  case finish => rw [exec_rxReply_finish ⟨hrx, hplay, hempty⟩, endReply]

/-! ### A silent line (45_link_rx.md R211, R212) -/

theorem steps_succ {s t : State} (h : step s = .next t) (n : Nat) : steps (n + 1) s = steps n t := by
  simp only [steps, Host.Core.run, core, h]

theorem endMsgTimeoutUs_bounds {cfg : Config} (h : cfg.wellFormed) :
    1 ≤ cfg.endMsgTimeoutUs ∧ cfg.endMsgTimeoutUs ≤ cfg.ctrMax := by
  obtain ⟨hord, hrange, -⟩ := h
  unfold Config.ordered at hord
  unfold Config.inRange at hrange
  omega

theorem bitOf_or_timeoutErr (v : Byte) : bitOf (v ||| 0x04#8) 2 = true := by simp [bitOf]

/-- A listening receiver whose line keeps its level: the wait for an edge is counted, the inject may move on,
and what remains of the engine's step is the test for the time-out. -/
theorem engine_of_heldLine {s : State} (hl : listening s) :
    ∃ b, b = { s with tEdge := min (s.tEdge + 1) s.cfg.ctrMax, ephem := .edge .none,
                      injState := b.injState, injCtr := b.injCtr } ∧
      engine .idle s.prevLevel s = andThen (exec .rxTimeout b) fun c => .next (endTick c) := by
  obtain ⟨b, hb⟩ := injectPhase_next s.prevLevel (clockStep s.prevLevel s)
  have hframe := injectPhase_frame hb
  rw [clockStep_held] at hframe
  have hrole : b.pins.role = .rx := by rw [hframe]; exact hl.1
  have hnone : b.ephem = .edge .none := by rw [hframe]
  have hreceive : receivePhase b = exec .rxTimeout b := by
    rw [receivePhase_none hnone, timeoutInstr_rx hrole]
  obtain ⟨c, hc⟩ := exec_next .rxTimeout b
  have hstill : c.pins.role = .rx := by
    rw [(receivePhase_frame (hreceive.trans hc)).only.pins, hrole]
  refine ⟨b, hframe, ?_⟩
  rw [engine, exec_clkStep, andThen_next, hb, andThen_next, hreceive, hc, andThen_next,
    transmitPhase_idle_rx hstill, andThen_next]

/-- A receiver in `RD` or `GP` before `k` ticks in which the line keeps its level and the host is silent. -/
structure HeldInFrame (k : Nat) (s : State) : Prop where
  config : s.cfg.wellFormed
  listening : listening s
  inFrame : s.linkState ≠ .awaitingSync
  trace : s.trace = heldLine k s.prevLevel

/-- The receiver has given its frame up and marked the time-out. -/
structure StarvedFrame (s : State) : Prop where
  linkState : s.linkState = .awaitingSync
  bitIdx : s.bitIdx = 0
  byteIdx : s.byteIdx = 0
  marked : bitOf s.diag 2 = true

namespace HeldInFrame

variable {k : Nat} {s : State}

theorem nextInput (h : HeldInFrame (k + 1) s) : nextInput s = sampledInput s.prevLevel := by
  rw [Machine.nextInput, h.trace]
  rfl

theorem plainTick (h : HeldInFrame (k + 1) s) : plainTick s.prevLevel s := by
  refine ⟨h.config, ?_, ?_, ?_⟩ <;> rw [h.nextInput]
  · rfl
  · exact fun hchange => hchange rfl
  · rfl

theorem hostSilent (h : HeldInFrame (k + 1) s) : hostSilent s := by
  rw [Machine.hostSilent, h.nextInput]
  exact ⟨quietPort, rfl, rfl⟩

/-- Such a tick counts the wait and then tests for the time-out. -/
theorem step_eq (h : HeldInFrame (k + 1) s) :
    ∃ b, b = { clearPulses (beginTick s.prevLevel s) with
        tEdge := min (s.tEdge + 1) s.cfg.ctrMax, ephem := .edge .none,
        injState := b.injState, injCtr := b.injCtr } ∧
      step s = andThen (exec .rxTimeout b) fun c => .next (endTick c) := by
  rw [step_of_silent h.plainTick h.hostSilent, h.listening.2]
  exact engine_of_heldLine (by exact h.listening)

/-- The tick in which the wait reaches its limit ends the frame. -/
theorem step_due (h : HeldInFrame (k + 1) s) (hdue : s.cfg.endMsgTimeoutUs ≤ s.tEdge + 1) :
    ∃ t, step s = .next t ∧ StarvedFrame t := by
  obtain ⟨b, hb, hstep⟩ := h.step_eq
  obtain ⟨-, hlimit⟩ := endMsgTimeoutUs_bounds h.config
  have hl : Machine.listening b := by rw [hb]; exact h.listening
  have hframe : b.linkState ≠ .awaitingSync := by rw [hb]; exact h.inFrame
  have htime : timedOut b := by rw [hb]; exact Nat.le_min.2 ⟨hdue, hlimit⟩
  rw [exec_rxTimeout_of_due hl hframe htime, andThen_next] at hstep
  exact ⟨_, hstep, rfl, rfl, rfl, bitOf_or_timeoutErr _⟩

/-- A tick before that brings the wait one nearer to its limit, and the receiver waits on. -/
theorem step_not_due (h : HeldInFrame (k + 1) s) (hearly : s.tEdge + 1 < s.cfg.endMsgTimeoutUs) :
    ∃ t, step s = .next t ∧ HeldInFrame k t ∧ t.tEdge = s.tEdge + 1 ∧ t.cfg = s.cfg := by
  obtain ⟨b, hb, hstep⟩ := h.step_eq
  obtain ⟨-, hlimit⟩ := endMsgTimeoutUs_bounds h.config
  rw [Nat.min_eq_left (by omega)] at hb
  have htime : ¬ timedOut b := by rw [hb]; exact Nat.not_le_of_lt hearly
  rw [exec_rxTimeout_of_not_due (.inr htime), andThen_next] at hstep
  have htrace : s.trace.tail = heldLine k s.prevLevel := by rw [h.trace]; rfl
  refine ⟨_, hstep, ?_⟩
  rw [hb]
  exact ⟨⟨h.config, h.listening, h.inFrame, htrace⟩, rfl, rfl⟩

/-- By induction on the ticks left: each ends the frame, or the wait still reaches its limit in the others. -/
theorem starves (h : HeldInFrame k s) (hpos : 1 ≤ k) (hreach : s.cfg.endMsgTimeoutUs ≤ s.tEdge + k) :
    ∃ n t, 1 ≤ n ∧ n ≤ k ∧ steps n s = .next t ∧ StarvedFrame t := by
  induction k generalizing s with
  | zero => cases hpos
  | succ k ih =>
    rcases Nat.lt_or_ge (s.tEdge + 1) s.cfg.endMsgTimeoutUs with hearly | hdue
    · obtain ⟨t, hstep, ht, hedge, hcfg⟩ := h.step_not_due hearly
      obtain ⟨n, u, hn, hle, hsteps, hu⟩ := ih ht (by omega) (by rw [hcfg, hedge]; omega)
      exact ⟨n + 1, u, by omega, by omega, (steps_succ hstep n).trans hsteps, hu⟩
    · obtain ⟨t, hstep, ht⟩ := h.step_due hdue
      exact ⟨1, t, le_rfl, by omega, steps_succ hstep 0, ht⟩

end HeldInFrame

/-- Settles O59: by the invariant the receiver listens, and as many held ticks as the limit bring its wait to
it. -/
theorem silentLineEndsFrame : Obligations.SilentLineEndsFrame := by
  intro s h hrx hframe htrace
  have hl : listening s := h.tickInv.listening_of_not_awaitingSync hrx hframe
  have hheld : HeldInFrame s.cfg.endMsgTimeoutUs s := ⟨h.config, hl, hframe, htrace⟩
  obtain ⟨hpos, -⟩ := endMsgTimeoutUs_bounds h.config
  obtain ⟨n, t, hn, hle, hsteps, hlink, hbit, hbyte, hmark⟩ := hheld.starves hpos (Nat.le_add_left _ _)
  exact ⟨n, t, hn, hle, hsteps, hlink, hbit, hbyte, hmark⟩

end Sys2Proof.Machine
end

section
/-! PROOFS. The family 46_link_tx.md: the start of a cycle (R232, R235), the bytes it loads slot by slot (R236 to
R241), its end (R242, R243), the ways a read-back fails (R247, R248), and the period of an idle transmitter
(R232). -/

namespace Sys2Proof.Machine

open Sys2Proof

/-! ### The start of a cycle (46_link_tx.md R232, R235) -/

section
variable {s : State}

theorem exec_txStart (h : txIdle s) : exec .txStart s = .next (startCycle s) :=
  congrArg Host.Outcome.next (if_pos h)

theorem exec_txPreamble (h : txIdle s) (hdue : cycleDue s) :
    exec .txPreamble s = .next (playPreamble s) := congrArg Host.Outcome.next (if_pos ⟨h, hdue⟩)

theorem exec_txPreamble_of_not_due (hdue : ¬ cycleDue s) : exec .txPreamble s = .next s :=
  congrArg Host.Outcome.next (if_neg fun h => hdue h.2)

theorem not_cycleDue (hq : s.qLen = 0) (hearly : s.idleCtr < s.cfg.pollPeriodUs) : ¬ cycleDue s := by
  rintro (hqueued | hpoll) <;> omega

theorem startCycle_of_due (hdue : cycleDue s) :
    startCycle s = { s with
      rbVec := 0x00#8, txrSeen := false, txSlot := 0, idleCtr := 0,
      segs := [.d0 s.cfg.resetTxLowUs, .d1 s.cfg.resetTxHighUs], segRem := s.cfg.resetTxLowUs,
      txState := .play } := if_pos hdue

theorem startCycle_of_not_due (hdue : ¬ cycleDue s) :
    startCycle s = { s with idleCtr := min (s.idleCtr + 1) s.cfg.ctrMax } := if_neg hdue

theorem playPreamble_eq (s : State) :
    playPreamble s = { s with
      txSlot := 0, segs := [.d0 s.cfg.resetTxLowUs, .d1 s.cfg.resetTxHighUs],
      segRem := s.cfg.resetTxLowUs, txState := .play } := rfl

end

/-- Settles O36: a cycle that is due begins with its preamble, and else one more idle tick is counted. -/
theorem cycleStart : Obligations.CycleStart := by
  intro s htx hidle
  refine ⟨fun hdue => ⟨?start, ?preamble⟩, fun hq hearly => ⟨?count, ?noPreamble⟩⟩
  case start => rw [exec_txStart ⟨htx, hidle⟩, startCycle_of_due hdue]
  case preamble => rw [exec_txPreamble ⟨htx, hidle⟩ hdue, playPreamble_eq]
  case count => rw [exec_txStart ⟨htx, hidle⟩, startCycle_of_not_due (not_cycleDue hq hearly)]
  case noPreamble => exact exec_txPreamble_of_not_due (not_cycleDue hq hearly)

/-! ### The slots of a cycle (46_link_tx.md R236 to R241) -/

section
variable {s : State}

theorem exec_txHdra (h : slotEnded 0 s) : exec .txHdra s = .next (playHeader s) :=
  congrArg Host.Outcome.next (if_pos h)

theorem exec_txFold (h : slotEnded 1 s) : exec .txFold s = .next (foldOverlay s) :=
  congrArg Host.Outcome.next (if_pos h)

theorem exec_txFlags (h : slotEnded 1 s) : exec .txFlags s = .next (playFlags s) :=
  congrArg Host.Outcome.next (if_pos h)

theorem exec_txDequeue (h : slotEnded 2 s) : exec .txDequeue s = .next (dequeue s) :=
  congrArg Host.Outcome.next (if_pos h)

theorem exec_txPayload (h : slotEnded s.txSlot s) (hlo : 2 ≤ s.txSlot) (hhi : s.txSlot ≤ 11) :
    exec .txPayload s = .next (playPayload s) := congrArg Host.Outcome.next (if_pos ⟨h, hlo, hhi⟩)

theorem exec_txParity (h : slotEnded 12 s) : exec .txParity s = .next (playParity s) :=
  congrArg Host.Outcome.next (if_pos h)

end

/-- Settles O37: each event loads a byte whose waveform begins with the short LOW, and the dequeue takes the
queued buffer or the keep-alive's zeros. -/
theorem slotsLoaded : Obligations.SlotsLoaded := by
  intro s htx hplay hempty
  have hended : ∀ {k}, s.txSlot = k → slotEnded k s := fun hk => ⟨htx, hplay, hempty, hk⟩
  refine ⟨fun hk => ?header, fun hk => ?flags, fun hk hq => ?queued, fun hk hq => ?keepAlive,
    fun hlo hhi => ?payload, fun hk => ?parity⟩
  case header =>
    rw [exec_txHdra (hended hk), playHeader_eq, playSlot_waveByte hplay, overlayMask]
  case flags => rw [exec_txFlags (hended hk), playFlags_eq, playSlot_waveByte hplay]
  case queued => rw [exec_txDequeue (hended hk), dequeue_queued hq, queuedPayload]
  case keepAlive => rw [exec_txDequeue (hended hk), dequeue_empty hq, zeros]
  case payload =>
    rw [exec_txPayload (hended rfl) hlo hhi, playPayload_eq, playSlot_waveByte hplay]
  case parity => rw [exec_txParity (hended hk), playParity_eq, playSlot_waveByte hplay]

/-! ### The overlay (46_link_tx.md R237, R238) -/

theorem exec_txOverlay {s : State} (hplay : s.txState = .play) (line : Level) :
    exec (.txOverlay line) s = .next (sampleOverlay line s) := congrArg Host.Outcome.next (if_pos hplay)

/-- Settles O38: an overlay cell is sampled when its tick is due, and the end of byte 0 folds the vector. -/
theorem overlaySampleAndFold : Obligations.OverlaySampleAndFold := by
  intro s hplay
  refine ⟨fun line n i k rest hs => ?sample, fun htx hempty hk => ?fold⟩
  case sample =>
    rw [exec_txOverlay hplay]
    exact ⟨fun hdue => by rw [sampleOverlay_of_due line hs hdue],
      fun hdue => by rw [sampleOverlay_of_not_due line hs hdue]⟩
  case fold => rw [exec_txFold ⟨htx, hplay, hempty, hk⟩, foldOverlay, foldFlags]

/-! ### The end of a cycle (46_link_tx.md R242, R243) -/

section
variable {s : State}

theorem exec_txEnd (h : slotEnded 13 s) (hseen : s.txrSeen = false) :
    exec .txEnd s = .next (endCycle s) := congrArg Host.Outcome.next (if_pos ⟨h, hseen⟩)

theorem exec_rbEnter (h : slotEnded 13 s) (hseen : s.txrSeen = true) :
    exec .rbEnter s = .next (enterReadBack s) := congrArg Host.Outcome.next (if_pos ⟨h, hseen⟩)

/-- Outside `T_PLAY` a block that does not inject releases the line (10_state.md R43). -/
theorem lineOe_of_not_playing (hinj : s.injState ≠ .drive) (hplay : s.txState ≠ .play) :
    lineOe s = false := lineOe_eq_false_iff.2 (lineDrive_of_released hinj (.inl hplay))

end

/-- Settles O39: the peer's `TX_READY` decides between the end and the read-back, and neither state plays. -/
theorem cycleEnd : Obligations.CycleEnd := by
  intro s htx hplay hempty hk hinj
  have hended : slotEnded 13 s := ⟨htx, hplay, hempty, hk⟩
  refine ⟨fun hseen => ⟨?ended, ?endReleases⟩, fun hseen => ⟨?readBack, ?readBackReleases⟩⟩
  case ended => rw [exec_txEnd hended hseen, endCycle]
  case readBack => rw [exec_rbEnter hended hseen, enterReadBack, startFrame]
  case endReleases => exact lineOe_of_not_playing hinj (by simp)
  case readBackReleases => exact lineOe_of_not_playing hinj (by simp)

/-! ### A read-back that fails (46_link_tx.md R247, R248) -/

section
variable {s : State}

theorem exec_rbAbort (h : readingBack s) : exec .rbAbort s = .next (raise .readBackAbort s) :=
  congrArg Host.Outcome.next (if_pos h)

theorem consumeReset_readingBack (h : readingBack s) : consumeReset s = raise .readBackAbort s := by
  rw [consumeReset, if_neg (not_listening_of_tx h.1), if_pos h]

theorem raise_readBackAbort_tx (htx : s.pins.role = .tx) :
    raise .readBackAbort s = { s with
      diag := s.diag ||| 0x08#8, bitIdx := 0, byteIdx := 0, curByte := 0x00#8, txState := .idle,
      idleCtr := 0 } := by
  rw [raise_readBackAbort, toRestart_tx (by exact htx), rbAbortErr]

theorem raise_starvation_tx (htx : s.pins.role = .tx) :
    raise .starvation s = { s with
      diag := s.diag ||| 0x04#8, bitIdx := 0, byteIdx := 0, curByte := 0x00#8, txState := .idle,
      idleCtr := 0 } := by
  rw [raise_starvation, toRestart_tx (by exact htx), timeoutErr]

theorem exec_rbTimeout_of_due (h : readingBack s) (hdue : timedOut s) :
    exec .rbTimeout s = .next (raise .starvation s) := congrArg Host.Outcome.next (if_pos ⟨h, hdue⟩)

theorem exec_rbTimeout_of_not (h : ¬ (readingBack s ∧ timedOut s)) : exec .rbTimeout s = .next s :=
  congrArg Host.Outcome.next (if_neg h)

/-- Without an edge the transmit role tests for the end of the read-back (60_exceptions.md R331). -/
theorem receivePhase_none_tx (htx : s.pins.role = .tx) (hnone : s.ephem = .edge .none) :
    receivePhase s = exec .rbTimeout s := by
  rw [receivePhase_none hnone, timeoutInstr_tx htx]

end

/-- Settles O19: the symbol and the event are one operation of the read-back. -/
theorem linkResetAbortsReadBack : Obligations.LinkResetAbortsReadBack := by
  intro s d htx hrb hreset
  rw [List.forall_mem_cons, List.forall_mem_singleton, exec_reset_decoded hreset,
    consumeReset_readingBack ⟨htx, hrb⟩, exec_rbAbort ⟨htx, hrb⟩, raise_readBackAbort_tx htx]
  exact ⟨rfl, rfl⟩

/-- Settles O29: a step without an edge tests for the time-out, which is due or not. -/
theorem readBackTimeout : Obligations.ReadBackTimeout := by
  intro s htx hrb hnone
  have htest := receivePhase_none_tx htx hnone
  refine ⟨fun hdue => ⟨htest, ?due⟩, fun hearly => ?early⟩
  case due => rw [exec_rbTimeout_of_due ⟨htx, hrb⟩ hdue, raise_starvation_tx htx]
  case early => rw [htest, exec_rbTimeout_of_not fun h => Nat.not_le_of_lt hearly h.2]

/-! ### The period of an idle transmitter (46_link_tx.md R232) -/

theorem symbolInstr_mem (cfg : Config) (d : Nat) : symbolInstr cfg d ∈
    [Instr.reset (.decoded d), .one (.decoded d), .zero (.decoded d), .falling d] := by
  cases hc : classify cfg d
  case reset => simp [symbolInstr_of_reset hc]
  case one => simp [symbolInstr_of_one hc]
  case zero => simp [symbolInstr_of_zero hc]

/-- An idle transmitter consumes no symbol and no edge, and waits for none (46_link_tx.md R249). -/
theorem receivePhase_txIdle {s : State} (h : txIdle s) : receivePhase s = .next s := by
  obtain ⟨htx, hidle⟩ := h
  have hnotReading : s.txState ≠ .readBack := by simp [hidle]
  obtain ⟨hlisten, hread⟩ := no_consumer (.inr ⟨htx, hnotReading⟩)
  unfold receivePhase edgeInstr
  split
  case h_1 d _ => exact exec_symbolOrFalling_dropped hlisten hread d _ (symbolInstr_mem s.cfg d)
  case h_2 d _ => exact exec_symbolOrFalling_dropped hlisten hread d _ (by simp)
  case h_3 => rw [timeoutInstr_tx htx, exec_rbTimeout_of_not fun hdue => hread hdue.1]

/-- Whatever the line shows an idle transmitter, of the engine's step only the PulseClock and the
cycle-start test act. -/
theorem engine_txIdle {s : State} (h : txIdle s) (line : Level) :
    ∃ b, b = { s with prevLevel := b.prevLevel, tEdge := b.tEdge, ephem := b.ephem } ∧
      engine .idle line s = .next (endTick (startCycle b)) := by
  have hframe := clockStep_frame line s
  have hidle : txIdle (clockStep line s) := by rw [hframe]; exact h
  refine ⟨clockStep line s, hframe, ?_⟩
  rw [engine, exec_clkStep, andThen_next, injectPhase_tx hidle.1, andThen_next,
    receivePhase_txIdle hidle, andThen_next, transmitPhase_idle_tx hidle.1, exec_txStart hidle,
    andThen_next]

/-- A transmitter that waits for its poll period: idle, not driving, nothing queued, no input listed. -/
structure AwaitingPoll (s : State) : Prop where
  config : s.cfg.wellFormed
  txIdle : txIdle s
  noInject : s.injState ≠ .drive
  qLen : s.qLen = 0
  trace : s.trace = []

namespace AwaitingPoll

variable {s : State}

theorem nextInput (h : AwaitingPoll s) : nextInput s = quietInput := by
  rw [Machine.nextInput, h.trace]
  rfl

/-- Neither party drives, so the net keeps its level. -/
theorem plainTick (h : AwaitingPoll s) : plainTick s.net s := by
  have hreleased : lineDrive s = .released :=
    lineDrive_of_released h.noInject (.inl (by simp [h.txIdle.2]))
  refine ⟨h.config, ?_, ?_, ?_⟩ <;> rw [h.nextInput]
  · rfl
  · exact fun hchange => hchange rfl
  · exact benchNet_keeps s.net (by simp [hreleased]) (by simp [hreleased])

theorem hostSilent (h : AwaitingPoll s) : hostSilent s := by
  rw [Machine.hostSilent, h.nextInput]
  exact ⟨quietPort, rfl, rfl⟩

/-- A tick of the wait is the cycle-start test. -/
theorem step_eq (h : AwaitingPoll s) :
    ∃ b, b = { clearPulses (beginTick s.net s) with
        prevLevel := b.prevLevel, tEdge := b.tEdge, ephem := b.ephem } ∧
      step s = .next (endTick (startCycle b)) := by
  rw [step_of_silent h.plainTick h.hostSilent, h.txIdle.2]
  exact engine_txIdle (by exact h.txIdle) s.net

/-- Before the period has passed a tick counts, and the transmitter waits on. -/
theorem step_counts (h : AwaitingPoll s) (hearly : s.idleCtr < s.cfg.pollPeriodUs) :
    ∃ t, step s = .next t ∧ AwaitingPoll t ∧ t.idleCtr = s.idleCtr + 1 ∧ t.cfg = s.cfg := by
  obtain ⟨b, hb, hstep⟩ := h.step_eq
  have hnot : ¬ cycleDue b := by rw [hb]; exact not_cycleDue h.qLen hearly
  have hlimit : s.idleCtr + 1 ≤ s.cfg.ctrMax := by
    obtain ⟨-, hrange, -⟩ := h.config
    unfold Config.inRange at hrange
    omega
  rw [startCycle_of_not_due hnot] at hstep
  have htrace : s.trace.tail = [] := by rw [h.trace]; rfl
  refine ⟨_, hstep, ?_⟩
  rw [hb]
  exact ⟨⟨h.config, h.txIdle, h.noInject, h.qLen, htrace⟩, Nat.min_eq_left hlimit, rfl⟩

/-- When the period has passed the next tick starts a cycle, whose preamble pulls the line LOW. -/
theorem step_starts (h : AwaitingPoll s) (hdue : s.cfg.pollPeriodUs ≤ s.idleCtr) :
    ∃ u, step s = .next u ∧ u.txState = .play ∧ u.txSlot = 0 ∧
      u.segs = [.d0 s.cfg.resetTxLowUs, .d1 s.cfg.resetTxHighUs] ∧ lineDrive u = .low := by
  obtain ⟨b, hb, hstep⟩ := h.step_eq
  have hdue' : cycleDue b := by rw [hb]; exact .inr hdue
  rw [startCycle_of_due hdue'] at hstep
  have hinj : b.injState ≠ .drive := by rw [hb]; exact h.noInject
  have hcfg : b.cfg = s.cfg := by rw [hb]; rfl
  refine ⟨_, hstep, rfl, rfl, ?segs, ?low⟩
  case segs => rw [← hcfg]; rfl
  case low => exact lineDrive_of_segment (g := .d0 b.cfg.resetTxLowUs) hinj rfl rfl

/-- By induction on the ticks that are missing: each is counted. -/
theorem steps_count {n : Nat} (h : AwaitingPoll s) (hn : s.idleCtr + n ≤ s.cfg.pollPeriodUs) :
    ∃ t, steps n s = .next t ∧ AwaitingPoll t ∧ t.idleCtr = s.idleCtr + n ∧ t.cfg = s.cfg := by
  induction n generalizing s with
  | zero => exact ⟨s, rfl, h, rfl, rfl⟩
  | succ n ih =>
    obtain ⟨t, hstep, ht, hctr, hcfg⟩ := h.step_counts (by omega)
    obtain ⟨u, hsteps, hu, huctr, hucfg⟩ := ih ht (by rw [hctr, hcfg]; omega)
    exact ⟨u, (steps_succ hstep n).trans hsteps, hu, by omega, hucfg.trans hcfg⟩

end AwaitingPoll

/-- Settles O60: by the invariant the transmitter does not inject; the missing ticks are counted and the one
after them is due. -/
theorem cycleStartsAfterPollPeriod : Obligations.CycleStartsAfterPollPeriod := by
  intro s h htx hidle hq htrace hctr
  obtain ⟨-, hoff⟩ := h.tx_role htx
  have hwait : AwaitingPoll s := ⟨h.config, ⟨htx, hidle⟩, by simp [hoff], hq, htrace⟩
  obtain ⟨t, hsteps, ht, htctr, hcfg⟩ := hwait.steps_count (Nat.add_sub_of_le hctr).le
  rw [Nat.add_sub_of_le hctr] at htctr
  obtain ⟨u, hstep, hplay, hslot, hsegs, hlow⟩ := ht.step_starts (by rw [hcfg, htctr])
  rw [hcfg] at hsegs
  exact ⟨t, u, hsteps, ht.txIdle.2, htctr, hstep, hplay, hslot, hsegs, hlow⟩

end Sys2Proof.Machine
end

section
/-! PROOFS. The family 47_host_commands.md: the answers of the port's commands (R266 to R273). -/

namespace Sys2Proof.Machine

open Sys2Proof

/-! ### What each command of the port runs -/

theorem exec_hnop (s : State) : exec .hnop s = .next (respond true false s) := rfl

theorem exec_send (len : Nat) (data : List Byte) (s : State) :
    exec (.send len data) s = .next (enqueue len data s) := rfl

theorem exec_take (arg : Byte) (s : State) : exec (.take arg) s = .next (takeBit (takeIndex arg) s) := rfl

theorem exec_setf (arg : Byte) (s : State) : exec (.setf arg) s = .next (setFlags arg s) := rfl

theorem exec_clrf (arg : Byte) (s : State) : exec (.clrf arg) s = .next (clearFlags arg s) := rfl

theorem exec_wra (arg : Byte) (s : State) :
    exec (.wra arg) s = .next (respond true false { s with hdrA := arg }) := rfl

theorem exec_clrd (arg : Byte) (s : State) : exec (.clrd arg) s = .next (clearDiag arg s) := rfl

theorem exec_hostopReserved7 (s : State) : exec .hostopReserved7 s = .next (respond false false s) := rfl

/-! ### The shared operations, one equation for each answer -/

section
variable {s : State}

theorem enqueue_of_accepted {len : Nat} (h : sendAccepted len s) (data : List Byte) :
    enqueue len data s = { s with
      qBuf := pad10 (data.take len), qLen := len, cmdOk := true, cmdResult := false } := if_pos h

theorem enqueue_of_refused {len : Nat} (h : ¬ sendAccepted len s) (data : List Byte) :
    enqueue len data s = { s with cmdOk := false, cmdResult := false } := if_neg h

theorem not_sendAccepted {len : Nat} (h : s.qLen ≠ 0 ∨ len = 0 ∨ 10 < len) : ¬ sendAccepted len s := by
  rintro ⟨hq, hlo, hhi⟩
  omega

theorem takeBit_eq (k : Nat) (s : State) :
    takeBit k s = { s with
      peerFlags := setBitTo s.peerFlags k false, cmdOk := true, cmdResult := bitOf s.peerFlags k,
      textReady := s.textReady || (decide (s.pins.role = .tx) && decide (k = 1) &&
        bitOf s.peerFlags k) } := rfl

theorem clearFlags_eq (m : Byte) (s : State) :
    clearFlags m s = { s with
      outFlags := s.outFlags &&& ~~~m, cmdOk := true, cmdResult := false } := rfl

theorem takeIndex_lt (arg : Byte) : takeIndex arg < 8 := Nat.mod_lt _ (by decide)

/-- A bit that is clear stays clear. -/
theorem setBitTo_false_idem (v : Byte) (k : Nat) :
    setBitTo (setBitTo v k false) k false = setBitTo v k false := by
  simp only [setBitTo, Bool.false_eq_true, if_false]
  rw [BitVec.and_assoc, BitVec.and_self]

/-- A second TAKE of a bit answers 0 and finds nothing to clear (47_host_commands.md R268). -/
theorem takeBit_twice {k : Nat} (hk : k < 8) (s : State) :
    (takeBit k (takeBit k s)).cmdResult = false ∧
    (takeBit k (takeBit k s)).peerFlags = setBitTo s.peerFlags k false := by
  refine ⟨?_, setBitTo_false_idem s.peerFlags k⟩
  change bitOf (setBitTo s.peerFlags k false) k = false
  rw [bitOf_setBitTo _ _ hk, if_pos rfl]

end

/-- Settles O40: the answer of each command is its meaning, and SETF's mask is the role's. -/
theorem hnopSetfWraClrd : Obligations.HnopSetfWraClrd := by
  intro s v
  refine ⟨exec_hnop s, fun htx => ?transmitMask, fun hrx => ?receiveMask, exec_wra v s, exec_clrd v s⟩
  case transmitMask => rw [exec_setf, setFlags_tx htx]
  case receiveMask => rw [exec_setf, setFlags_rx hrx]

/-- Settles O41: the reserved code is answered with `cmd_ok` = 0 and writes nothing else. -/
theorem reservedCommandRefused : Obligations.ReservedCommandRefused := exec_hostopReserved7

/-- Settles O42: SEND's test decides between the queued buffer and the refusal. -/
theorem sendEnqueues : Obligations.SendEnqueues := by
  intro s len data
  rw [exec_send]
  refine ⟨fun hq hlo hhi => ?accepted, fun hno => ?refused⟩
  case accepted => rw [enqueue_of_accepted ⟨hq, hlo, hhi⟩]
  case refused => rw [enqueue_of_refused (not_sendAccepted hno)]

/-- Settles O43: the first TAKE answers the bit and clears it, so the second finds it clear. -/
theorem takeReturnsAndClears : Obligations.TakeReturnsAndClears := by
  intro s arg
  refine ⟨?first, takeBit (takeIndex arg) (takeBit (takeIndex arg) s), ?second,
    takeBit_twice (takeIndex_lt arg) s⟩
  case first => rw [exec_take, takeBit_eq, takeIndex]
  case second => rw [exec_take, andThen_next, exec_take]

/-- Settles O44: CLRF meets `out_flags` with every bit outside the mask. -/
theorem clrfClearsBits : Obligations.ClrfClearsBits := by
  refine ⟨fun s m => exec_clrf m s, fun s hflags => ?worked⟩
  case worked =>
    have hclear : (0x90#8 &&& ~~~0x10#8 : Byte) = 0x80#8 := by decide
    rw [exec_clrf, clearFlags_eq, hflags, hclear]

end Sys2Proof.Machine
end

section
/-! PROOFS. The family 48_command_vocabulary.md: an id selects nothing, so each of the sixteen commands is
the block's own operation on a payload of ten bytes (R284). -/

namespace Sys2Proof.Machine

open Sys2Proof

/-! ### The three legs of a payload -/

/-- Every command carries its id and its data, whatever the id is. -/
theorem exec_commandRow : ∀ r ∈ commandRows, ∀ (leg : Leg) (data : List Byte) (s : State),
    exec (r.2 leg data) s = .next (carryPayload leg (r.1 :: data) s) := by
  simp only [commandRows, List.forall_mem_cons, List.not_mem_nil, false_imp_iff, implies_true, and_true]
  and_intros <;> exact fun _ _ _ => rfl

section
variable {s : State} {payload : List Byte}

theorem carryPayload_enqueue (payload : List Byte) (s : State) :
    carryPayload .enqueue payload s = enqueue 10 payload s := rfl

/-- The transmit role sends a queued payload by its dequeue (46_link_tx.md R240). -/
theorem carryPayload_send_dequeue (hq : 0 < s.qLen) (hpayload : (queuedPayload s).toList = payload)
    (hended : slotEnded 2 s) : carryPayload .send payload s = dequeue s := by
  rw [carryPayload, if_pos ⟨hq, hpayload⟩, if_pos hended]

/-- The receive role sends a queued payload by its reply burst (45_link_rx.md R216). -/
theorem carryPayload_send_reply (hq : 0 < s.qLen) (hpayload : (queuedPayload s).toList = payload)
    (haccepted : packetAccepted s) (hgranted : replyGranted s) :
    carryPayload .send payload s = startReply s := by
  have hslot : ¬ slotEnded 2 s := fun hended => by
    have hrole := haccepted.1.1.symm.trans hended.1
    cases hrole
  rw [carryPayload, if_pos ⟨hq, hpayload⟩, if_neg hslot, if_pos ⟨haccepted, hgranted⟩]

/-- The receive role delivers a payload by the completion of its packet (41_packet_assembler.md R144). -/
theorem carryPayload_deliver_packet (h : packetGathered s) (hpayload : packetPayload s = payload) :
    carryPayload .deliver payload s = finishPacket s := by
  rw [carryPayload, if_pos ⟨h, hpayload⟩]

/-- The transmit role delivers a payload by the completion of a read-back burst (46_link_tx.md R246). -/
theorem carryPayload_deliver_burst (h : readingBack s) (hfull : s.byteIdx = s.cfg.burstLen)
    (hpayload : burstPayload s = payload) : carryPayload .deliver payload s = finishBurst s := by
  have hpacket : ¬ (packetGathered s ∧ packetPayload s = payload) := fun hp => by
    have hrole := h.1.symm.trans hp.1.1
    cases hrole
  rw [carryPayload, if_neg hpacket, if_pos ⟨⟨h, hfull⟩, hpayload⟩]

/-- A list that a ten-byte buffer holds exactly is the buffer. -/
theorem eq_pad10_of_toList {buf : Vector Byte 10} {l : List Byte} (h : buf.toList = l) :
    buf = pad10 l := by
  have hl : l.length = 10 := by rw [← h, Vector.length_toList]
  rw [← Vector.toList_inj, pad10, bufOfList_toList_of_length hl, h]

end

/-- Settles O49: asking for a command is SEND of its ten bytes. -/
theorem commandEnqueued : Obligations.CommandEnqueued := by
  intro s data hdata r hr
  have hlen : (r.1 :: data).length ≤ 10 := by rw [List.length_cons, hdata]
  rw [exec_commandRow r hr, carryPayload_enqueue]
  refine ⟨fun hq => ?accepted, fun hq => ?refused⟩
  case accepted =>
    rw [enqueue_of_accepted ⟨hq, by decide, by decide⟩, List.take_of_length_le hlen]
  case refused => rw [enqueue_of_refused (not_sendAccepted (.inl hq))]

/-- Settles O50: sending is the role's way out of the queue, and the queue holds the command's bytes. -/
theorem commandSent : Obligations.CommandSent := by
  intro s data _ r hr hq hpayload
  have hbuf : queuedPayload s = pad10 (r.1 :: data) := eq_pad10_of_toList hpayload
  rw [exec_commandRow r hr]
  refine ⟨fun htx hplay hempty hslot => ?dequeued,
    fun hrx hfull hgate hparity hen hbus => ?replied⟩
  case dequeued =>
    rw [carryPayload_send_dequeue hq hpayload ⟨htx, hplay, hempty, hslot⟩, dequeue_queued hq, hbuf]
  case replied =>
    have haccepted : packetAccepted s := ⟨⟨hrx, hfull⟩, hgate, (packetParityOk_iff s).2 hparity⟩
    have hlist : (queuedPayload s).toList = r.1 :: data := hpayload
    rw [carryPayload_send_reply hq hpayload haccepted ⟨hen, hbus, hq⟩, startReply_eq, hlist, hbuf]

/-- Settles O51: delivering is the completion of the role's frame, and the frame holds the command's
bytes. -/
theorem commandDelivered : Obligations.CommandDelivered := by
  intro s data r hr
  rw [exec_commandRow r hr]
  refine ⟨fun hrx hfull hpayload => ⟨?asPacket, fun hgate hparity hreply => ?packet⟩,
    fun htx hx hfull hpayload hparity => ?burst⟩
  case asPacket =>
    rw [carryPayload_deliver_packet ⟨hrx, hfull⟩ hpayload, exec_packetReceived ⟨hrx, hfull⟩]
  case packet =>
    have hbytes : packetPayload s = r.1 :: data := hpayload
    have hok : packetParityOk s = true := (packetParityOk_iff s).2 (by rw [hbytes, hparity])
    rw [carryPayload_deliver_packet ⟨hrx, hfull⟩ hpayload,
      finishPacket_of_accepted hrx hgate hok hreply, deliverPacket, hbytes]
  case burst =>
    have hbytes : burstPayload s = r.1 :: data := hpayload
    have hok : burstParityOk s = true := (burstParityOk_iff s).2 (by rw [hbytes, hparity])
    rw [carryPayload_deliver_burst ⟨htx, hx⟩ hfull hpayload, finishBurst_of_parityOk htx hok, hbytes]

end Sys2Proof.Machine
end

section
/-! PROOFS. The family 49_text_chunker_boundary.md: one opportunity of the chunker (R305 to R308, R310), and
the fragments of a whole text (R309). -/

namespace Sys2Proof.Machine

open Sys2Proof

/-! ### One fragment (49_text_chunker_boundary.md R308) -/

section
variable {cfg : Config} {t : TextSession} {s : State}

/-- The last fragment is filled with end marks and completes the session. -/
theorem nextChunk_of_le (h : t.text.length - t.cursor ≤ cfg.chunkLen) :
    nextChunk cfg t = (.finish,
      t.text.drop t.cursor ++
        List.replicate (cfg.chunkLen - (t.text.length - t.cursor)) cfg.textEndMark,
      { t with cursor := 0, active := false }) := by
  rw [← List.length_drop] at h ⊢
  rw [nextChunk, if_pos h, List.take_of_length_le h]

/-- A fragment before the last is full and moves the cursor. -/
theorem nextChunk_of_lt (h : cfg.chunkLen < t.text.length - t.cursor) :
    nextChunk cfg t = (.append, (t.text.drop t.cursor).take cfg.chunkLen,
      { t with cursor := t.cursor + cfg.chunkLen }) := by
  rw [← List.length_drop] at h
  rw [nextChunk, if_neg h.not_ge, Nat.sub_eq_zero_of_le h.le, List.replicate_zero, List.append_nil]

/-- The tag and the bytes that R308 asks for are those of the chunker, and the tag says whether the session
goes on. -/
theorem nextChunk_eq {tag : ChunkTag} {chunk : List Byte}
    (hlast : t.text.length - t.cursor ≤ cfg.chunkLen → tag = .finish ∧
      chunk = t.text.drop t.cursor ++
        List.replicate (cfg.chunkLen - (t.text.length - t.cursor)) cfg.textEndMark)
    (hmore : cfg.chunkLen < t.text.length - t.cursor → tag = .append ∧
      chunk = (t.text.drop t.cursor).take cfg.chunkLen) :
    nextChunk cfg t = (tag, chunk,
      if tag = .finish then { t with cursor := 0, active := false }
      else { t with cursor := t.cursor + cfg.chunkLen }) := by
  rcases Nat.lt_or_ge cfg.chunkLen (t.text.length - t.cursor) with hlt | hle
  · obtain ⟨rfl, rfl⟩ := hmore hlt
    rw [nextChunk_of_lt hlt, if_neg (by decide)]
  · obtain ⟨rfl, rfl⟩ := hlast hle
    rw [nextChunk_of_le hle, if_pos rfl]

theorem exec_chunkNext (h : chunkerInvoked s) :
    exec .chunkNext s = .next (sendChunk (nextChunk s.cfg s.text) s) :=
  congrArg Host.Outcome.next (if_pos h)

theorem exec_chunkNext_of_not (h : ¬ chunkerInvoked s) : exec .chunkNext s = .next s :=
  congrArg Host.Outcome.next (if_neg h)

theorem not_chunkerInvoked (h : s.pins.role = .rx ∨ s.text.active = false ∨ s.textReady = false) :
    ¬ chunkerInvoked s := by
  rintro ⟨htx, hopen, hready⟩
  rcases h with h | h | h
  · simp [h] at htx
  · simp [h] at hopen
  · simp [h] at hready

end

/-- Settles O52: the chunker hands the fragment to SEND, whose test decides whether the session moves; the
payload's items are those of R297. -/
theorem nextFragmentIsSent : Obligations.NextFragmentIsSent := by
  refine ⟨?invoked, fun s hno => exec_chunkNext_of_not (not_chunkerInvoked hno),
    fun session tag chunk => ⟨fun hlen => ?short, textPayload_items session tag chunk⟩,
    chunkTagByte_ne⟩
  case invoked =>
    rintro s tag chunk _ htx hopen hready rfl hlast hmore
    rw [exec_chunkNext ⟨htx, hopen, hready⟩, nextChunk_eq hlast hmore]
    rcases sendChunk_cases (tag, chunk, _) s with ⟨haccepted, hsend⟩ | ⟨hrefused, hsend⟩ <;> rw [hsend]
    · exact ⟨fun _ _ => rfl, fun hno => absurd haccepted (not_sendAccepted (hno.imp_right .inr))⟩
    · have hpos : 1 ≤ (textPayload s.text tag chunk).length := by
        rcases textPayload_length s.text tag chunk with h | h <;> omega
      exact ⟨fun hq hhi => absurd ⟨hq, hpos, hhi⟩ hrefused, fun _ => rfl⟩
  case short =>
    rcases textPayload_length session tag chunk with h | h <;> omega

/-! ### A whole text (49_text_chunker_boundary.md R309) -/

/-- How a text is cut: full fragments tagged as more to come, and a last one that is filled with end
marks. -/
inductive CutInto (cfg : Config) : List Byte → List (ChunkTag × List Byte) → Prop where
  | last {l : List Byte} (hne : l ≠ []) (hle : l.length ≤ cfg.chunkLen) :
      CutInto cfg l [(.finish, l ++ List.replicate (cfg.chunkLen - l.length) cfg.textEndMark)]
  | more {l : List Byte} {fs : List (ChunkTag × List Byte)} (hlt : cfg.chunkLen < l.length)
      (hrest : CutInto cfg (l.drop cfg.chunkLen) fs) :
      CutInto cfg l ((.append, l.take cfg.chunkLen) :: fs)

section
variable {cfg : Config} {t : TextSession}

theorem fragments_of_complete (h : t.active = false) (fuel : Nat) : fragments cfg fuel t = [] := by
  cases fuel with
  | zero => rfl
  | succ fuel => rw [fragments, if_neg (by simp [h])]

theorem fragments_of_open (h : t.active = true) (fuel : Nat) :
    fragments cfg (fuel + 1) t =
      ((nextChunk cfg t).1, (nextChunk cfg t).2.1) :: fragments cfg fuel (nextChunk cfg t).2.2 := by
  rw [fragments, if_pos h]

/-- An open session cuts what lies behind its cursor. Each fragment takes at least one byte, so that a
fragment for each byte is enough. -/
theorem fragments_cutInto (hpos : 1 ≤ cfg.chunkLen) (fuel : Nat) (hopen : t.active = true)
    (hcursor : t.cursor < t.text.length) (hfuel : t.text.length - t.cursor ≤ fuel) :
    CutInto cfg (t.text.drop t.cursor) (fragments cfg fuel t) := by
  induction fuel generalizing t with
  | zero => omega
  | succ fuel ih =>
    rw [fragments_of_open hopen]
    rcases Nat.lt_or_ge cfg.chunkLen (t.text.length - t.cursor) with hlt | hle
    · rw [nextChunk_of_lt hlt]
      refine .more (by rwa [List.length_drop]) ?_
      rw [List.drop_drop]
      exact ih (t := { t with cursor := t.cursor + cfg.chunkLen }) hopen (by simp only; omega)
        (by simp only; omega)
    · rw [nextChunk_of_le hle, fragments_of_complete rfl, ← List.length_drop]
      exact .last (List.drop_eq_nil_iff.not.2 (by omega)) (by rwa [List.length_drop])

end

namespace CutInto

variable {cfg : Config} {l : List Byte} {fs : List (ChunkTag × List Byte)}

/-- Each fragment before the last takes `CHUNK_LEN` bytes off the text: `ceil(L / CHUNK_LEN)` of them. -/
theorem length_eq (hpos : 1 ≤ cfg.chunkLen) (h : CutInto cfg l fs) :
    fs.length = (l.length + cfg.chunkLen - 1) / cfg.chunkLen := by
  induction h with
  | @last l hne hle =>
    have hlen : 0 < l.length := List.length_pos_iff.2 hne
    rw [List.length_singleton]
    exact (Nat.div_eq_of_lt_le (by omega) (by omega)).symm
  | @more l fs hlt _ ih =>
    have hsplit : l.length + cfg.chunkLen - 1 =
        l.length - cfg.chunkLen + cfg.chunkLen - 1 + cfg.chunkLen := by omega
    rw [List.length_cons, ih, List.length_drop, hsplit, Nat.add_div_right _ hpos]

theorem length_of_mem (h : CutInto cfg l fs) : ∀ f ∈ fs, f.2.length = cfg.chunkLen := by
  induction h with
  | last _ hle =>
    rw [List.forall_mem_singleton, List.length_append, List.length_replicate]
    omega
  | more hlt _ ih =>
    rw [List.forall_mem_cons, List.length_take_of_le hlt.le]
    exact ⟨rfl, ih⟩

theorem content_eq (h : CutInto cfg l fs) :
    ∃ n, fs.flatMap (fun f => f.2) = l ++ List.replicate n cfg.textEndMark := by
  induction h with
  | last _ _ => exact ⟨_, List.flatMap_singleton _ _⟩
  | @more l fs _ _ ih =>
    obtain ⟨n, hcontent⟩ := ih
    exact ⟨n, by rw [List.flatMap_cons, hcontent, ← List.append_assoc, List.take_append_drop]⟩

theorem tags_eq (h : CutInto cfg l fs) :
    ∃ front last, fs = front ++ [last] ∧ last.1 = .finish ∧ ∀ f ∈ front, f.1 = .append := by
  induction h with
  | last _ _ => exact ⟨[], _, rfl, rfl, by simp⟩
  | more _ _ ih =>
    obtain ⟨front, last, rfl, hfinish, hfront⟩ := ih
    exact ⟨_ :: front, last, rfl, hfinish, List.forall_mem_cons.2 ⟨rfl, hfront⟩⟩

end CutInto

/-- Settles O53: the fragments of a new session cut the whole text. -/
theorem fragmentsAreTheText : Obligations.FragmentsAreTheText := by
  intro cfg text fuel hpos hne hfuel
  have hcut : CutInto cfg text (fragments cfg fuel ⟨text, 0, true⟩) :=
    fragments_cutInto (t := ⟨text, 0, true⟩) hpos fuel rfl (List.length_pos_iff.2 hne) hfuel
  exact ⟨hcut.length_eq hpos, hcut.length_of_mem, hcut.content_eq, hcut.tags_eq⟩

end Sys2Proof.Machine
end

section
/-! PROOFS. The family 70_reset_and_hazards.md: the hardware reset (R350). -/

namespace Sys2Proof.Machine

open Sys2Proof

/-- A tick with `rst` = 1 is the hardware reset; a new text is taken after it. -/
theorem step_of_rst {s : State} {line : Level} (hw : s.cfg.wellFormed)
    (hl : lineLevel (nextInput s) s = some line) (hr : (nextInput s).rst = true) :
    step s = .next (takeNewText (nextInput s)
      (hardwareReset (nextInput s).pins (beginTick line s))) := by
  rw [step_eq_tick hw hl, tick_of_rst hr]

/-- What a new text may touch is the session alone. -/
theorem takeNewText_eq (inp : TickInput) (s : State) :
    takeNewText inp s = { s with text := (takeNewText inp s).text } := by
  rcases takeNewText_cases inp s with ⟨text, -, htake⟩ | ⟨-, htake⟩
  · rw [htake, setText_eq]
  · rw [htake]

theorem takeNewText_of_newText {inp : TickInput} {text : List Byte} (h : inp.host = .newText text)
    (s : State) : takeNewText inp s = setText text s := by
  rw [takeNewText, h]

theorem takeNewText_of_not_newText {inp : TickInput} (h : ∀ text, inp.host ≠ .newText text)
    (s : State) : takeNewText inp s = s := by
  rcases takeNewText_cases inp s with ⟨text, htext, -⟩ | ⟨-, htake⟩
  · exact absurd htext (h text)
  · exact htake

/-- After a hardware reset neither the inject nor the player drives the line. -/
theorem lineOe_takeNewText_hardwareReset (inp : TickInput) (pins : Option Pins) (s : State) :
    lineOe (takeNewText inp (hardwareReset pins s)) = false := by
  rw [takeNewText_eq]
  exact lineOe_of_not_playing (by simp [hardwareReset, State.reset])
    (by simp [hardwareReset, State.reset])

/-- Settles O5: the tick is the hardware reset, and the session is the old one or that of a new text. -/
theorem hardwareResetState : Obligations.HardwareResetState := by
  intro s line hw hl hr
  have hstep := step_of_rst hw hl hr
  refine ⟨(takeNewText (nextInput s) (hardwareReset (nextInput s).pins (beginTick line s))).text,
    ?state, fun hno => ?oldSession, fun text htext => ?newSession, fun t ht => ?released⟩
  case state =>
    rw [hstep, takeNewText_eq]
    rfl
  case oldSession =>
    rw [takeNewText_of_not_newText hno]
    rfl
  case newSession =>
    obtain ⟨hbound, hwhole⟩ := keptText_spec text
    refine ⟨keptText text, hbound, hwhole, ?_⟩
    rw [takeNewText_of_newText htext, setText_eq]
    rfl
  case released =>
    obtain rfl := Host.Outcome.next.inj (hstep.symm.trans ht)
    exact lineOe_takeNewText_hardwareReset _ _ _

end Sys2Proof.Machine
end
